-- ==== Sys2Proof/Word.lean ====
section
/-! DEFINITION. The words and the enumerations of the block (`00_scope.md` R9 to R11, `10_state.md` R26 to R28). -/

namespace Sys2Proof

/-- One byte of the byte source, 8 bits (R11, R50). -/
abbrev Byte := BitVec 8

/-- A 32-bit value, bit 31 the most significant (R9). -/
abbrev Word := BitVec 32

/-- The sequencer's phases (R26). The values 6 and 7 of the 3-bit register are written by no rule, so the
enumeration does not have them (U23). -/
inductive Phase where
  | idle      -- no pass since reset or since the last ABORT
  | tag       -- the next step is the tag skip
  | metadata  -- the next step is the metadata-frame skip
  | walk      -- the next step is one Walker iteration
  | done      -- the pass ended normally
  | fault     -- the pass ended on a failed read
deriving DecidableEq, Repr

/-- Why the pass ended (R27). -/
inductive Stop where
  | none | endOfSource | invalidHeader | truncatedFrame | ioError
deriving DecidableEq, Repr

/-- Which of the parser's checks failed first (R28). -/
inductive Cause where
  | none | sync | version | layer | bitrate | sampleRate
deriving DecidableEq, Repr

/-- FrameHeader: the triple decoded from one valid header (`00_scope.md` section 7, R110). Counts are naturals,
computed exactly (R10). -/
structure FrameHeader where
  kbps    : Nat
  hz      : Nat
  padding : BitVec 1
deriving DecidableEq, Repr

/-- The two outcomes of the parser (R110): the sentinel with its cause, or the three fields. -/
inductive ParseResult where
  | invalid (cause : Cause)
  | valid   (f : FrameHeader)
deriving DecidableEq, Repr

/-- The bits of a frame header word that a valid `FHDR` leaves free (R71): protection, the two indexes, padding and
the nine ignored bits. -/
structure FrameBits where
  q   : BitVec 1
  bri : BitVec 4
  sri : BitVec 2
  p   : BitVec 1
  w   : BitVec 9
deriving DecidableEq, Repr

end Sys2Proof
end

