-- ==== Sys2Proof/Config.lean ====
section
/-! DEFINITION. The parameters of the block (`00_scope.md` R7), fixed when it is built (R227), and the free values. -/

namespace Sys2Proof.Config

/-- `SYNC_VALUE`, all ones in `SYNC_WIDTH` = 11 bits (R7). -/
def syncValue : BitVec 11 := 0x7FF#11

/-- `VERSION_MPEG1` (R7, R112). PRESUMED by the spec itself, log entry 2. -/
def versionMpeg1 : BitVec 2 := 0b11#2

/-- `LAYER_III` (R7, R113). PRESUMED by the spec itself, log entry 2. -/
def layerIII : BitVec 2 := 0b01#2

/-- `FLEN_COEFF` (R7, R130). -/
def flenCoeff : Nat := 144000

/-- `TAG_HDR_LEN` (R7, R141). -/
def tagHdrLen : Nat := 10

/-- `TAG_ID`, "ID3" (R7, R142). PRESUMED by the spec itself, log entry 2. -/
def tagId0 : Byte := 0x49#8
def tagId1 : Byte := 0x44#8
def tagId2 : Byte := 0x33#8

/-- `META_OFFSET` (R7, R154). -/
def metaOffset : Nat := 36

/-- `META_MIN` (R7, R151; `90_conflicts.md` C2 keeps 44). -/
def metaMin : Nat := 44

/-- The bytes of one frame header, the guard of the Walker's loop (R164). -/
def headerLen : Nat := 4

/-- `MARKER_VBR`, "Xing", as a big-endian pattern (R7, R75). PRESUMED by the spec itself, log entry 2. -/
def markerVbr : Word := 0x58696E67#32

/-- `MARKER_CBR`, "Info", as a big-endian pattern (R7, R75). PRESUMED by the spec itself, log entry 2. -/
def markerCbr : Word := 0x496E666F#32

/-! ### Free values

Each is a constant without a body, applied to the counter `draw` of State (log entry 5): no proof can see what it is. -/

/-- HDR between steps and after hardware reset (R25, R220). -/
opaque freeHdr : Nat → Word
/-- FH_VALID between steps and after hardware reset (R25, R220). -/
opaque freeFhValid : Nat → Bool
/-- FH_BR between steps and after hardware reset (R25, R220). -/
opaque freeFhBr : Nat → BitVec 9
/-- FH_SR between steps and after hardware reset (R25, R220). -/
opaque freeFhSr : Nat → BitVec 16
/-- FH_PAD between steps and after hardware reset (R25, R220). -/
opaque freeFhPad : Nat → BitVec 1
/-- FLEN between steps and after hardware reset (R25, R220). -/
opaque freeFlen : Nat → BitVec 11
/-- SIZE after hardware reset (R220). -/
opaque freeSize : Nat → Nat
/-- POS after hardware reset (R220). -/
opaque freePos : Nat → Nat
/-- CNT after hardware reset (R220). -/
opaque freeCnt : Nat → Nat
/-- A lane of `rd_data` that the source leaves unspecified (R55): by `draw`, the number of reads before, the lane. -/
opaque freeLane : Nat → Nat → Nat → Byte
/-- `rd_n`, 4 bits, of an answer with `rd_err = 1` (R55 does not say it): by `draw` and the number of reads before. -/
opaque freeRdN : Nat → Nat → BitVec 4
/-- The length the calculator gives for a sample rate of 0, which R130 keeps out of its operands (log entry 17). -/
opaque freeZeroRateLength : Nat → Nat
/-- The 11-bit FLEN register after a call whose exact length needs more than 11 bits (log entry 17). -/
opaque freeWideFlen : Nat → BitVec 11

end Sys2Proof.Config
end

