-- ==== Sys2Proof/Syntax.lean ====
section
/-! DEFINITION. The instructions of the block: one constructor for each row of `spec/opcode_table.json`
(`30_encoding.md` R70, R85). An element keeps every bit of its encoding that its row leaves free, the ignored ones too. -/

namespace Sys2Proof

/-- `q` protection, `p` padding, `w` the nine ignored bits (R71); `rest` the bits below the last one the row fixes. -/
inductive Instr where
  /-- `TAG`: a leading metadata tag, bytes t3 to t9 of its header (R74). -/
  | tag (ver rev flags s6 s7 s8 s9 : Byte)
  /-- `META_VBR`: a statistics frame with the marker for variable bitrate (R75). -/
  | metaVbr (q : BitVec 1) (bri : BitVec 4) (sri : BitVec 2) (p : BitVec 1) (w : BitVec 9)
  /-- `META_CBR`: a statistics frame with the marker for constant bitrate (R75). -/
  | metaCbr (q : BitVec 1) (bri : BitVec 4) (sri : BitVec 2) (p : BitVec 1) (w : BitVec 9)
  -- `FRAME_B<i>_S<j>`: an audio frame of bitrate index i and sample-rate index j (R85)
  | frameB1S0 (q p : BitVec 1) (w : BitVec 9)
  | frameB1S1 (q p : BitVec 1) (w : BitVec 9)
  | frameB1S2 (q p : BitVec 1) (w : BitVec 9)
  | frameB2S0 (q p : BitVec 1) (w : BitVec 9)
  | frameB2S1 (q p : BitVec 1) (w : BitVec 9)
  | frameB2S2 (q p : BitVec 1) (w : BitVec 9)
  | frameB3S0 (q p : BitVec 1) (w : BitVec 9)
  | frameB3S1 (q p : BitVec 1) (w : BitVec 9)
  | frameB3S2 (q p : BitVec 1) (w : BitVec 9)
  | frameB4S0 (q p : BitVec 1) (w : BitVec 9)
  | frameB4S1 (q p : BitVec 1) (w : BitVec 9)
  | frameB4S2 (q p : BitVec 1) (w : BitVec 9)
  | frameB5S0 (q p : BitVec 1) (w : BitVec 9)
  | frameB5S1 (q p : BitVec 1) (w : BitVec 9)
  | frameB5S2 (q p : BitVec 1) (w : BitVec 9)
  | frameB6S0 (q p : BitVec 1) (w : BitVec 9)
  | frameB6S1 (q p : BitVec 1) (w : BitVec 9)
  | frameB6S2 (q p : BitVec 1) (w : BitVec 9)
  | frameB7S0 (q p : BitVec 1) (w : BitVec 9)
  | frameB7S1 (q p : BitVec 1) (w : BitVec 9)
  | frameB7S2 (q p : BitVec 1) (w : BitVec 9)
  | frameB8S0 (q p : BitVec 1) (w : BitVec 9)
  | frameB8S1 (q p : BitVec 1) (w : BitVec 9)
  | frameB8S2 (q p : BitVec 1) (w : BitVec 9)
  | frameB9S0 (q p : BitVec 1) (w : BitVec 9)
  | frameB9S1 (q p : BitVec 1) (w : BitVec 9)
  | frameB9S2 (q p : BitVec 1) (w : BitVec 9)
  | frameB10S0 (q p : BitVec 1) (w : BitVec 9)
  | frameB10S1 (q p : BitVec 1) (w : BitVec 9)
  | frameB10S2 (q p : BitVec 1) (w : BitVec 9)
  | frameB11S0 (q p : BitVec 1) (w : BitVec 9)
  | frameB11S1 (q p : BitVec 1) (w : BitVec 9)
  | frameB11S2 (q p : BitVec 1) (w : BitVec 9)
  | frameB12S0 (q p : BitVec 1) (w : BitVec 9)
  | frameB12S1 (q p : BitVec 1) (w : BitVec 9)
  | frameB12S2 (q p : BitVec 1) (w : BitVec 9)
  | frameB13S0 (q p : BitVec 1) (w : BitVec 9)
  | frameB13S1 (q p : BitVec 1) (w : BitVec 9)
  | frameB13S2 (q p : BitVec 1) (w : BitVec 9)
  | frameB14S0 (q p : BitVec 1) (w : BitVec 9)
  | frameB14S1 (q p : BitVec 1) (w : BitVec 9)
  | frameB14S2 (q p : BitVec 1) (w : BitVec 9)
  -- the invalid header words, in the order of the parser's checks (R82, R85)
  | invalidSync (sync : BitVec 11) (rest : BitVec 21)
  | invalidVersion0 (rest : BitVec 19)
  | invalidVersion1 (rest : BitVec 19)
  | invalidVersion2 (rest : BitVec 19)
  | invalidLayer0 (rest : BitVec 17)
  | invalidLayer2 (rest : BitVec 17)
  | invalidLayer3 (rest : BitVec 17)
  | invalidBitrateFree (q : BitVec 1) (rest : BitVec 12)
  | invalidBitrateBad (q : BitVec 1) (rest : BitVec 12)
  | invalidSampleRate (q : BitVec 1) (bri : BitVec 4) (rest : BitVec 10)
  -- host commands (R160, R175)
  | start (sizeIn : Nat)
  | abort
  -- internal steps, selected by PHASE (R162, R163, R165)
  | tagStep
  | metaStep
  | walkStep
  -- combinational functions (R100, R110, R130, R134, R140, R150, R172)
  | extract (v : Word) (startBit width : Nat)
  | parse (h : Word)
  | flen (kbps : BitVec 9) (hz : BitVec 16) (padding : BitVec 1)
  | fits (len rem : Nat)
  | tagskip (pos : Nat)
  | metaskip (pos : Nat)
  | countframes (sizeIn : Nat)
  -- pseudo-elements of the stream notation (R87)
  | frame128
  | frame128p
deriving DecidableEq, Repr

end Sys2Proof
end

