-- ==== Sys2Proof/WellFormed.lean ====
section
/-! DEFINITION. Which instruction terms stand for something the spec describes: the operand ranges of the rows. -/

namespace Sys2Proof

/-- The two index fields of a valid header (R114, R115). -/
def validIndexes (bri : BitVec 4) (sri : BitVec 2) : Bool :=
  bri != 0#4 && bri != 15#4 && sri != 3#2

/-- The precondition of the extractor (R101). -/
def extractInRange (startBit width : Nat) : Bool :=
  decide (startBit ≤ 31) && decide (width ≤ 31) && decide (width ≤ startBit + 1)

/-- Well-formedness, constructor by constructor: an element is well formed when its own bits do not make it another
row's word (R82, R85); a function when its operands are in the range its rule gives (R101, R130). -/
def Instr.wf : Instr → Bool
  | .tag _ _ _ _ _ _ _ => true
  | .metaVbr _ bri sri _ _ => validIndexes bri sri
  | .metaCbr _ bri sri _ _ => validIndexes bri sri
  | .frameB1S0 _ _ _ => true
  | .frameB1S1 _ _ _ => true
  | .frameB1S2 _ _ _ => true
  | .frameB2S0 _ _ _ => true
  | .frameB2S1 _ _ _ => true
  | .frameB2S2 _ _ _ => true
  | .frameB3S0 _ _ _ => true
  | .frameB3S1 _ _ _ => true
  | .frameB3S2 _ _ _ => true
  | .frameB4S0 _ _ _ => true
  | .frameB4S1 _ _ _ => true
  | .frameB4S2 _ _ _ => true
  | .frameB5S0 _ _ _ => true
  | .frameB5S1 _ _ _ => true
  | .frameB5S2 _ _ _ => true
  | .frameB6S0 _ _ _ => true
  | .frameB6S1 _ _ _ => true
  | .frameB6S2 _ _ _ => true
  | .frameB7S0 _ _ _ => true
  | .frameB7S1 _ _ _ => true
  | .frameB7S2 _ _ _ => true
  | .frameB8S0 _ _ _ => true
  | .frameB8S1 _ _ _ => true
  | .frameB8S2 _ _ _ => true
  | .frameB9S0 _ _ _ => true
  | .frameB9S1 _ _ _ => true
  | .frameB9S2 _ _ _ => true
  | .frameB10S0 _ _ _ => true
  | .frameB10S1 _ _ _ => true
  | .frameB10S2 _ _ _ => true
  | .frameB11S0 _ _ _ => true
  | .frameB11S1 _ _ _ => true
  | .frameB11S2 _ _ _ => true
  | .frameB12S0 _ _ _ => true
  | .frameB12S1 _ _ _ => true
  | .frameB12S2 _ _ _ => true
  | .frameB13S0 _ _ _ => true
  | .frameB13S1 _ _ _ => true
  | .frameB13S2 _ _ _ => true
  | .frameB14S0 _ _ _ => true
  | .frameB14S1 _ _ _ => true
  | .frameB14S2 _ _ _ => true
  | .invalidSync sync _ => sync != Config.syncValue
  | .invalidVersion0 _ => true
  | .invalidVersion1 _ => true
  | .invalidVersion2 _ => true
  | .invalidLayer0 _ => true
  | .invalidLayer2 _ => true
  | .invalidLayer3 _ => true
  | .invalidBitrateFree _ _ => true
  | .invalidBitrateBad _ _ => true
  | .invalidSampleRate _ bri _ => bri != 0#4 && bri != 15#4
  | .start _ => true
  | .abort => true
  | .tagStep => true
  | .metaStep => true
  | .walkStep => true
  | .extract _ startBit width => extractInRange startBit width
  | .parse _ => true
  | .flen kbps hz _ => kbps != 0#9 && hz != 0#16
  | .fits _ _ => true
  | .tagskip _ => true
  | .metaskip _ => true
  | .countframes _ => true
  | .frame128 => true
  | .frame128p => true

end Sys2Proof
end

