-- ==== Sys2Proof/Decode.lean ====
section
/-! DEFINITION. The decoder, then the encoder, both from the encoding tables of `30_encoding.md`. Decoding depends on
the phase (R70, R80): a tag header is looked for in phase TAG, a header word with a marker in phase META, a header word
in phase WALK; an internal step is selected by the value of PHASE. -/

namespace Sys2Proof

/-! ### Byte order and tables -/

/-- Big-endian assembly of four bytes, the first at the lowest offset (R11, R56): the bytes side by side. -/
def be32 (b0 b1 b2 b3 : Byte) : Word := b0 ++ b1 ++ b2 ++ b3

/-- The four bytes of a word in offset order (R56, R72). -/
def wordBytes (h : Word) : List Byte :=
  [h.extractLsb' 24 8, h.extractLsb' 16 8, h.extractLsb' 8 8, h.extractLsb' 0 8]

/-- `BITRATE_KBPS` (R7, R77): positions 0 and 15 hold no bitrate. PRESUMED by the spec itself, log entry 2. -/
def bitrateKbps : BitVec 4 → Option Nat
  | 1#4 => some 32
  | 2#4 => some 40
  | 3#4 => some 48
  | 4#4 => some 56
  | 5#4 => some 64
  | 6#4 => some 80
  | 7#4 => some 96
  | 8#4 => some 112
  | 9#4 => some 128
  | 10#4 => some 160
  | 11#4 => some 192
  | 12#4 => some 224
  | 13#4 => some 256
  | 14#4 => some 320
  | _ => none

/-- `SAMPLE_RATE_HZ` (R7, R78, D15): index 3 has no entry. -/
def sampleRateHz : BitVec 2 → Option Nat
  | 0#2 => some 44100
  | 1#2 => some 48000
  | 2#2 => some 32000
  | _ => none

/-! ### Phase codes -/

/-- The encoding of PHASE (R26). -/
def Phase.code : Phase → BitVec 3
  | .idle => 0#3
  | .tag => 1#3
  | .metadata => 2#3
  | .walk => 3#3
  | .done => 4#3
  | .fault => 5#3

/-- The phase of a code, where the code is one of the six (R26). -/
def phaseOfCode : BitVec 3 → Option Phase
  | 0#3 => some .idle
  | 1#3 => some .tag
  | 2#3 => some .metadata
  | 3#3 => some .walk
  | 4#3 => some .done
  | 5#3 => some .fault
  | _ => none

/-! ### The decoder -/

/-- Why a byte string, or a PHASE value, stands for no element in a phase. -/
inductive DecodeError where
  | tooFewBytes        -- fewer bytes than the format has
  | notATagIdentifier  -- the first three bytes are not TAG_ID (R142)
  | noElementInPhase   -- IDLE, DONE and FAULT look for no element (R70)
  | phaseEnablesNoStep -- PHASE 0, 4, 5 enable no internal step and 6, 7 are never written (R26)
  | noRow              -- reached by no word: the rows cover all of them (R85)
deriving DecidableEq, Repr

/-- The row `FRAME_B<i>_S<j>` of two valid indexes (R85). -/
def frameRow (q : BitVec 1) (bri : BitVec 4) (sri : BitVec 2) (p : BitVec 1) (w : BitVec 9) : Except DecodeError Instr :=
  match bri.toNat, sri.toNat with
  | 1, 0 => .ok (.frameB1S0 q p w)
  | 1, 1 => .ok (.frameB1S1 q p w)
  | 1, 2 => .ok (.frameB1S2 q p w)
  | 2, 0 => .ok (.frameB2S0 q p w)
  | 2, 1 => .ok (.frameB2S1 q p w)
  | 2, 2 => .ok (.frameB2S2 q p w)
  | 3, 0 => .ok (.frameB3S0 q p w)
  | 3, 1 => .ok (.frameB3S1 q p w)
  | 3, 2 => .ok (.frameB3S2 q p w)
  | 4, 0 => .ok (.frameB4S0 q p w)
  | 4, 1 => .ok (.frameB4S1 q p w)
  | 4, 2 => .ok (.frameB4S2 q p w)
  | 5, 0 => .ok (.frameB5S0 q p w)
  | 5, 1 => .ok (.frameB5S1 q p w)
  | 5, 2 => .ok (.frameB5S2 q p w)
  | 6, 0 => .ok (.frameB6S0 q p w)
  | 6, 1 => .ok (.frameB6S1 q p w)
  | 6, 2 => .ok (.frameB6S2 q p w)
  | 7, 0 => .ok (.frameB7S0 q p w)
  | 7, 1 => .ok (.frameB7S1 q p w)
  | 7, 2 => .ok (.frameB7S2 q p w)
  | 8, 0 => .ok (.frameB8S0 q p w)
  | 8, 1 => .ok (.frameB8S1 q p w)
  | 8, 2 => .ok (.frameB8S2 q p w)
  | 9, 0 => .ok (.frameB9S0 q p w)
  | 9, 1 => .ok (.frameB9S1 q p w)
  | 9, 2 => .ok (.frameB9S2 q p w)
  | 10, 0 => .ok (.frameB10S0 q p w)
  | 10, 1 => .ok (.frameB10S1 q p w)
  | 10, 2 => .ok (.frameB10S2 q p w)
  | 11, 0 => .ok (.frameB11S0 q p w)
  | 11, 1 => .ok (.frameB11S1 q p w)
  | 11, 2 => .ok (.frameB11S2 q p w)
  | 12, 0 => .ok (.frameB12S0 q p w)
  | 12, 1 => .ok (.frameB12S1 q p w)
  | 12, 2 => .ok (.frameB12S2 q p w)
  | 13, 0 => .ok (.frameB13S0 q p w)
  | 13, 1 => .ok (.frameB13S1 q p w)
  | 13, 2 => .ok (.frameB13S2 q p w)
  | 14, 0 => .ok (.frameB14S0 q p w)
  | 14, 1 => .ok (.frameB14S1 q p w)
  | 14, 2 => .ok (.frameB14S2 q p w)
  | _, _ => .error .noRow

/-- The row of a header word (R81, R82, R85): the invalid classes in the order of the checks, then the frames. -/
def decodeHeader (h : Word) : Except DecodeError Instr :=
  let ver := h.extractLsb' 19 2
  let layer := h.extractLsb' 17 2
  let bri := h.extractLsb' 12 4
  let sri := h.extractLsb' 10 2
  if h.extractLsb' 21 11 ≠ Config.syncValue then .ok (.invalidSync (h.extractLsb' 21 11) (h.extractLsb' 0 21))
  else if ver = 0b00#2 then .ok (.invalidVersion0 (h.extractLsb' 0 19))
  else if ver = 0b01#2 then .ok (.invalidVersion1 (h.extractLsb' 0 19))
  else if ver = 0b10#2 then .ok (.invalidVersion2 (h.extractLsb' 0 19))
  else if layer = 0b00#2 then .ok (.invalidLayer0 (h.extractLsb' 0 17))
  else if layer = 0b10#2 then .ok (.invalidLayer2 (h.extractLsb' 0 17))
  else if layer = 0b11#2 then .ok (.invalidLayer3 (h.extractLsb' 0 17))
  else if bri = 0#4 then .ok (.invalidBitrateFree (h.extractLsb' 16 1) (h.extractLsb' 0 12))
  else if bri = 15#4 then .ok (.invalidBitrateBad (h.extractLsb' 16 1) (h.extractLsb' 0 12))
  else if sri = 3#2 then .ok (.invalidSampleRate (h.extractLsb' 16 1) bri (h.extractLsb' 0 10))
  else frameRow (h.extractLsb' 16 1) bri sri (h.extractLsb' 9 1) (h.extractLsb' 0 9)

/-- Whether a word is a valid `FHDR`: the fixed part of R81 and its exclusions, field by field. -/
def isFrameHeader (h : Word) : Bool :=
  h.extractLsb' 21 11 == Config.syncValue && h.extractLsb' 19 2 == Config.versionMpeg1 &&
    h.extractLsb' 17 2 == Config.layerIII && validIndexes (h.extractLsb' 12 4) (h.extractLsb' 10 2)

/-- The element of phase META: a valid header with one of the two markers at offset 36 (R75, R80); without a marker
the word's own row. -/
def decodeMarked (h m : Word) : Except DecodeError Instr :=
  if isFrameHeader h && m == Config.markerVbr then
    .ok (.metaVbr (h.extractLsb' 16 1) (h.extractLsb' 12 4) (h.extractLsb' 10 2) (h.extractLsb' 9 1) (h.extractLsb' 0 9))
  else if isFrameHeader h && m == Config.markerCbr then
    .ok (.metaCbr (h.extractLsb' 16 1) (h.extractLsb' 12 4) (h.extractLsb' 10 2) (h.extractLsb' 9 1) (h.extractLsb' 0 9))
  else decodeHeader h

/-- The element of phase TAG: ten bytes whose first three are `TAG_ID` (R74). -/
def decodeTag : List Byte → Except DecodeError Instr
  | t0 :: t1 :: t2 :: t3 :: t4 :: t5 :: t6 :: t7 :: t8 :: t9 :: _ =>
    if t0 = Config.tagId0 ∧ t1 = Config.tagId1 ∧ t2 = Config.tagId2 then .ok (.tag t3 t4 t5 t6 t7 t8 t9)
    else .error .notATagIdentifier
  | _ => .error .tooFewBytes

/-- The element the bytes at POS spell in a phase (R80), total on any bytes. In phase META the marker is looked for
where the bytes reach offset 39. -/
def decode (ph : Phase) (bs : List Byte) : Except DecodeError Instr :=
  match ph with
  | .tag => decodeTag bs
  | .metadata =>
    match bs with
    | b0 :: b1 :: b2 :: b3 :: rest =>
      match rest.drop (Config.metaOffset - Config.headerLen) with
      | m0 :: m1 :: m2 :: m3 :: _ => decodeMarked (be32 b0 b1 b2 b3) (be32 m0 m1 m2 m3)
      | _ => decodeHeader (be32 b0 b1 b2 b3)
    | _ => .error .tooFewBytes
  | .walk =>
    match bs with
    | b0 :: b1 :: b2 :: b3 :: _ => decodeHeader (be32 b0 b1 b2 b3)
    | _ => .error .tooFewBytes
  | .idle => .error .noElementInPhase
  | .done => .error .noElementInPhase
  | .fault => .error .noElementInPhase

/-- The internal step a value of PHASE selects (format `PHASE` of the table, R26). -/
def decodePhase (code : BitVec 3) : Except DecodeError Instr :=
  if code = 1#3 then .ok .tagStep
  else if code = 2#3 then .ok .metaStep
  else if code = 3#3 then .ok .walkStep
  else .error .phaseEnablesNoStep

/-! ### The encoder -/

/-- A valid `FHDR`: the fields of R71 side by side, bit 31 first. -/
def frameWord (f : FrameBits) : Word :=
  Config.syncValue ++ Config.versionMpeg1 ++ Config.layerIII ++ f.q ++ f.bri ++ f.sri ++ f.p ++ f.w

/-- Words of the invalid classes (R82): the fields down to the one that fails the check, then the bits below it. -/
def syncWord (sync : BitVec 11) (rest : BitVec 21) : Word := sync ++ rest
def versionWord (ver : BitVec 2) (rest : BitVec 19) : Word := Config.syncValue ++ ver ++ rest
def layerWord (layer : BitVec 2) (rest : BitVec 17) : Word :=
  Config.syncValue ++ Config.versionMpeg1 ++ layer ++ rest
def bitrateWord (q : BitVec 1) (bri : BitVec 4) (rest : BitVec 12) : Word :=
  Config.syncValue ++ Config.versionMpeg1 ++ Config.layerIII ++ q ++ bri ++ rest
def sampleRateWord (q : BitVec 1) (bri : BitVec 4) (rest : BitVec 10) : Word :=
  Config.syncValue ++ Config.versionMpeg1 ++ Config.layerIII ++ q ++ bri ++ 3#2 ++ rest

/-- The header word of an element that has one (formats `FHDR` and `FHDR+MARKER`). The pseudo-elements are
`FRAME br=9 sr=0` with the defaults of the notation, protection 1 and low bits 0 (R86, R87). -/
def Instr.headerWord : Instr → Option Word
  | .tag _ _ _ _ _ _ _ => none
  | .metaVbr q bri sri p w => some (frameWord ⟨q, bri, sri, p, w⟩)
  | .metaCbr q bri sri p w => some (frameWord ⟨q, bri, sri, p, w⟩)
  | .frameB1S0 q p w => some (frameWord ⟨q, 1#4, 0#2, p, w⟩)
  | .frameB1S1 q p w => some (frameWord ⟨q, 1#4, 1#2, p, w⟩)
  | .frameB1S2 q p w => some (frameWord ⟨q, 1#4, 2#2, p, w⟩)
  | .frameB2S0 q p w => some (frameWord ⟨q, 2#4, 0#2, p, w⟩)
  | .frameB2S1 q p w => some (frameWord ⟨q, 2#4, 1#2, p, w⟩)
  | .frameB2S2 q p w => some (frameWord ⟨q, 2#4, 2#2, p, w⟩)
  | .frameB3S0 q p w => some (frameWord ⟨q, 3#4, 0#2, p, w⟩)
  | .frameB3S1 q p w => some (frameWord ⟨q, 3#4, 1#2, p, w⟩)
  | .frameB3S2 q p w => some (frameWord ⟨q, 3#4, 2#2, p, w⟩)
  | .frameB4S0 q p w => some (frameWord ⟨q, 4#4, 0#2, p, w⟩)
  | .frameB4S1 q p w => some (frameWord ⟨q, 4#4, 1#2, p, w⟩)
  | .frameB4S2 q p w => some (frameWord ⟨q, 4#4, 2#2, p, w⟩)
  | .frameB5S0 q p w => some (frameWord ⟨q, 5#4, 0#2, p, w⟩)
  | .frameB5S1 q p w => some (frameWord ⟨q, 5#4, 1#2, p, w⟩)
  | .frameB5S2 q p w => some (frameWord ⟨q, 5#4, 2#2, p, w⟩)
  | .frameB6S0 q p w => some (frameWord ⟨q, 6#4, 0#2, p, w⟩)
  | .frameB6S1 q p w => some (frameWord ⟨q, 6#4, 1#2, p, w⟩)
  | .frameB6S2 q p w => some (frameWord ⟨q, 6#4, 2#2, p, w⟩)
  | .frameB7S0 q p w => some (frameWord ⟨q, 7#4, 0#2, p, w⟩)
  | .frameB7S1 q p w => some (frameWord ⟨q, 7#4, 1#2, p, w⟩)
  | .frameB7S2 q p w => some (frameWord ⟨q, 7#4, 2#2, p, w⟩)
  | .frameB8S0 q p w => some (frameWord ⟨q, 8#4, 0#2, p, w⟩)
  | .frameB8S1 q p w => some (frameWord ⟨q, 8#4, 1#2, p, w⟩)
  | .frameB8S2 q p w => some (frameWord ⟨q, 8#4, 2#2, p, w⟩)
  | .frameB9S0 q p w => some (frameWord ⟨q, 9#4, 0#2, p, w⟩)
  | .frameB9S1 q p w => some (frameWord ⟨q, 9#4, 1#2, p, w⟩)
  | .frameB9S2 q p w => some (frameWord ⟨q, 9#4, 2#2, p, w⟩)
  | .frameB10S0 q p w => some (frameWord ⟨q, 10#4, 0#2, p, w⟩)
  | .frameB10S1 q p w => some (frameWord ⟨q, 10#4, 1#2, p, w⟩)
  | .frameB10S2 q p w => some (frameWord ⟨q, 10#4, 2#2, p, w⟩)
  | .frameB11S0 q p w => some (frameWord ⟨q, 11#4, 0#2, p, w⟩)
  | .frameB11S1 q p w => some (frameWord ⟨q, 11#4, 1#2, p, w⟩)
  | .frameB11S2 q p w => some (frameWord ⟨q, 11#4, 2#2, p, w⟩)
  | .frameB12S0 q p w => some (frameWord ⟨q, 12#4, 0#2, p, w⟩)
  | .frameB12S1 q p w => some (frameWord ⟨q, 12#4, 1#2, p, w⟩)
  | .frameB12S2 q p w => some (frameWord ⟨q, 12#4, 2#2, p, w⟩)
  | .frameB13S0 q p w => some (frameWord ⟨q, 13#4, 0#2, p, w⟩)
  | .frameB13S1 q p w => some (frameWord ⟨q, 13#4, 1#2, p, w⟩)
  | .frameB13S2 q p w => some (frameWord ⟨q, 13#4, 2#2, p, w⟩)
  | .frameB14S0 q p w => some (frameWord ⟨q, 14#4, 0#2, p, w⟩)
  | .frameB14S1 q p w => some (frameWord ⟨q, 14#4, 1#2, p, w⟩)
  | .frameB14S2 q p w => some (frameWord ⟨q, 14#4, 2#2, p, w⟩)
  | .invalidSync sync rest => some (syncWord sync rest)
  | .invalidVersion0 rest => some (versionWord 0b00#2 rest)
  | .invalidVersion1 rest => some (versionWord 0b01#2 rest)
  | .invalidVersion2 rest => some (versionWord 0b10#2 rest)
  | .invalidLayer0 rest => some (layerWord 0b00#2 rest)
  | .invalidLayer2 rest => some (layerWord 0b10#2 rest)
  | .invalidLayer3 rest => some (layerWord 0b11#2 rest)
  | .invalidBitrateFree q rest => some (bitrateWord q 0#4 rest)
  | .invalidBitrateBad q rest => some (bitrateWord q 15#4 rest)
  | .invalidSampleRate q bri rest => some (sampleRateWord q bri rest)
  | .start _ => none
  | .abort => none
  | .tagStep => none
  | .metaStep => none
  | .walkStep => none
  | .extract _ _ _ => none
  | .parse _ => none
  | .flen _ _ _ => none
  | .fits _ _ => none
  | .tagskip _ => none
  | .metaskip _ => none
  | .countframes _ => none
  | .frame128 => some (frameWord ⟨1#1, 9#4, 0#2, 0#1, 0#9⟩)
  | .frame128p => some (frameWord ⟨1#1, 9#4, 0#2, 1#1, 0#9⟩)

/-- The phase whose decoder reads the element back (R70); none for a row that has no bytes of its own. -/
def Instr.decodePhase? : Instr → Option Phase
  | .tag _ _ _ _ _ _ _ => some .tag
  | .metaVbr _ _ _ _ _ => some .metadata
  | .metaCbr _ _ _ _ _ => some .metadata
  | i => i.headerWord.map fun _ => .walk

/-- The bytes of an element, from the offset POS on (formats TAGHDR, FHDR, FHDR+MARKER). Between the header and the
marker of a statistics frame stand 32 bytes the block never reads, written as zeros. Empty for the host commands, the
internal steps and the functions, which no bit pattern of the stream selects. -/
def encode : Instr → List Byte
  | .tag ver rev flags s6 s7 s8 s9 =>
    [Config.tagId0, Config.tagId1, Config.tagId2, ver, rev, flags, s6, s7, s8, s9]
  | .metaVbr q bri sri p w =>
    wordBytes (frameWord ⟨q, bri, sri, p, w⟩) ++ List.replicate 32 0#8 ++ wordBytes Config.markerVbr
  | .metaCbr q bri sri p w =>
    wordBytes (frameWord ⟨q, bri, sri, p, w⟩) ++ List.replicate 32 0#8 ++ wordBytes Config.markerCbr
  | i => (i.headerWord.map wordBytes).getD []

/-- The value of PHASE that selects an internal step (format `PHASE`). -/
def encodePhase : Instr → Option (BitVec 3)
  | .tagStep => some 1#3
  | .metaStep => some 2#3
  | .walkStep => some 3#3
  | _ => none

/-! ### What the rows say of an element -/

/-- The free bits of the frame rows and of the two pseudo-elements, with the row's indexes (R85, R87). -/
def Instr.frameBits? : Instr → Option FrameBits
  | .frameB1S0 q p w => some ⟨q, 1#4, 0#2, p, w⟩
  | .frameB1S1 q p w => some ⟨q, 1#4, 1#2, p, w⟩
  | .frameB1S2 q p w => some ⟨q, 1#4, 2#2, p, w⟩
  | .frameB2S0 q p w => some ⟨q, 2#4, 0#2, p, w⟩
  | .frameB2S1 q p w => some ⟨q, 2#4, 1#2, p, w⟩
  | .frameB2S2 q p w => some ⟨q, 2#4, 2#2, p, w⟩
  | .frameB3S0 q p w => some ⟨q, 3#4, 0#2, p, w⟩
  | .frameB3S1 q p w => some ⟨q, 3#4, 1#2, p, w⟩
  | .frameB3S2 q p w => some ⟨q, 3#4, 2#2, p, w⟩
  | .frameB4S0 q p w => some ⟨q, 4#4, 0#2, p, w⟩
  | .frameB4S1 q p w => some ⟨q, 4#4, 1#2, p, w⟩
  | .frameB4S2 q p w => some ⟨q, 4#4, 2#2, p, w⟩
  | .frameB5S0 q p w => some ⟨q, 5#4, 0#2, p, w⟩
  | .frameB5S1 q p w => some ⟨q, 5#4, 1#2, p, w⟩
  | .frameB5S2 q p w => some ⟨q, 5#4, 2#2, p, w⟩
  | .frameB6S0 q p w => some ⟨q, 6#4, 0#2, p, w⟩
  | .frameB6S1 q p w => some ⟨q, 6#4, 1#2, p, w⟩
  | .frameB6S2 q p w => some ⟨q, 6#4, 2#2, p, w⟩
  | .frameB7S0 q p w => some ⟨q, 7#4, 0#2, p, w⟩
  | .frameB7S1 q p w => some ⟨q, 7#4, 1#2, p, w⟩
  | .frameB7S2 q p w => some ⟨q, 7#4, 2#2, p, w⟩
  | .frameB8S0 q p w => some ⟨q, 8#4, 0#2, p, w⟩
  | .frameB8S1 q p w => some ⟨q, 8#4, 1#2, p, w⟩
  | .frameB8S2 q p w => some ⟨q, 8#4, 2#2, p, w⟩
  | .frameB9S0 q p w => some ⟨q, 9#4, 0#2, p, w⟩
  | .frameB9S1 q p w => some ⟨q, 9#4, 1#2, p, w⟩
  | .frameB9S2 q p w => some ⟨q, 9#4, 2#2, p, w⟩
  | .frameB10S0 q p w => some ⟨q, 10#4, 0#2, p, w⟩
  | .frameB10S1 q p w => some ⟨q, 10#4, 1#2, p, w⟩
  | .frameB10S2 q p w => some ⟨q, 10#4, 2#2, p, w⟩
  | .frameB11S0 q p w => some ⟨q, 11#4, 0#2, p, w⟩
  | .frameB11S1 q p w => some ⟨q, 11#4, 1#2, p, w⟩
  | .frameB11S2 q p w => some ⟨q, 11#4, 2#2, p, w⟩
  | .frameB12S0 q p w => some ⟨q, 12#4, 0#2, p, w⟩
  | .frameB12S1 q p w => some ⟨q, 12#4, 1#2, p, w⟩
  | .frameB12S2 q p w => some ⟨q, 12#4, 2#2, p, w⟩
  | .frameB13S0 q p w => some ⟨q, 13#4, 0#2, p, w⟩
  | .frameB13S1 q p w => some ⟨q, 13#4, 1#2, p, w⟩
  | .frameB13S2 q p w => some ⟨q, 13#4, 2#2, p, w⟩
  | .frameB14S0 q p w => some ⟨q, 14#4, 0#2, p, w⟩
  | .frameB14S1 q p w => some ⟨q, 14#4, 1#2, p, w⟩
  | .frameB14S2 q p w => some ⟨q, 14#4, 2#2, p, w⟩
  | .frame128 => some ⟨1#1, 9#4, 0#2, 0#1, 0#9⟩
  | .frame128p => some ⟨1#1, 9#4, 0#2, 1#1, 0#9⟩
  | .tag _ _ _ _ _ _ _ => none
  | .metaVbr _ _ _ _ _ => none
  | .metaCbr _ _ _ _ _ => none
  | .invalidSync _ _ => none
  | .invalidVersion0 _ => none
  | .invalidVersion1 _ => none
  | .invalidVersion2 _ => none
  | .invalidLayer0 _ => none
  | .invalidLayer2 _ => none
  | .invalidLayer3 _ => none
  | .invalidBitrateFree _ _ => none
  | .invalidBitrateBad _ _ => none
  | .invalidSampleRate _ _ _ => none
  | .start _ => none
  | .abort => none
  | .tagStep => none
  | .metaStep => none
  | .walkStep => none
  | .extract _ _ _ => none
  | .parse _ => none
  | .flen _ _ _ => none
  | .fits _ _ => none
  | .tagskip _ => none
  | .metaskip _ => none
  | .countframes _ => none

/-- The cause an invalid row reports (R82). -/
def Instr.invalidCause? : Instr → Option Cause
  | .invalidSync _ _ => some .sync
  | .invalidVersion0 _ => some .version
  | .invalidVersion1 _ => some .version
  | .invalidVersion2 _ => some .version
  | .invalidLayer0 _ => some .layer
  | .invalidLayer2 _ => some .layer
  | .invalidLayer3 _ => some .layer
  | .invalidBitrateFree _ _ => some .bitrate
  | .invalidBitrateBad _ _ => some .bitrate
  | .invalidSampleRate _ _ _ => some .sampleRate
  | _ => none

/-! ### The rows as masks and matches -/

/-- One `FHDR` row of the opcode table: the words with `h &&& mask = value` (or, for `INVALID_SYNC`, `≠ value`), less
those an exclusion matches. -/
structure HeaderRow where
  mask    : Word
  value   : Word
  negated : Bool
  exclude : List (Word × Word)
deriving DecidableEq, Repr

/-- Whether a word belongs to a row. -/
def HeaderRow.selects (r : HeaderRow) (h : Word) : Bool :=
  (((h &&& r.mask) == r.value) != r.negated) && r.exclude.all fun e => (h &&& e.1) != e.2

/-- The row `FRAME_B<i>_S<j>`: mask `0xFFFEFC00`, match `0xFFFA0000 + (i << 12) + (j << 10)` (R85). -/
def frameHeaderRow (i j : Nat) : HeaderRow :=
  ⟨0xFFFEFC00#32, BitVec.ofNat 32 (0xFFFA0000 + i * 4096 + j * 1024), false, []⟩

/-- The ten rows of the invalid words (R85). -/
def invalidHeaderRows : List HeaderRow :=
  [⟨0xFFE00000#32, 0xFFE00000#32, true, []⟩,
   ⟨0xFFF80000#32, 0xFFE00000#32, false, []⟩,
   ⟨0xFFF80000#32, 0xFFE80000#32, false, []⟩,
   ⟨0xFFF80000#32, 0xFFF00000#32, false, []⟩,
   ⟨0xFFFE0000#32, 0xFFF80000#32, false, []⟩,
   ⟨0xFFFE0000#32, 0xFFFC0000#32, false, []⟩,
   ⟨0xFFFE0000#32, 0xFFFE0000#32, false, []⟩,
   ⟨0xFFFEF000#32, 0xFFFA0000#32, false, []⟩,
   ⟨0xFFFEF000#32, 0xFFFAF000#32, false, []⟩,
   ⟨0xFFFE0C00#32, 0xFFFA0C00#32, false, [(0x0000F000#32, 0x00000000#32), (0x0000F000#32, 0x0000F000#32)]⟩]

/-- The 52 `FHDR` rows of the table (R85): the 42 frames, then the ten invalid classes. -/
def headerRows : List HeaderRow :=
  ((List.range 14).flatMap fun i => (List.range 3).map fun j => frameHeaderRow (i + 1) j) ++ invalidHeaderRows

/-- The `FHDR` row of an instruction. -/
def Instr.headerRow? : Instr → Option HeaderRow
  | .invalidSync _ _ => invalidHeaderRows[0]?
  | .invalidVersion0 _ => invalidHeaderRows[1]?
  | .invalidVersion1 _ => invalidHeaderRows[2]?
  | .invalidVersion2 _ => invalidHeaderRows[3]?
  | .invalidLayer0 _ => invalidHeaderRows[4]?
  | .invalidLayer2 _ => invalidHeaderRows[5]?
  | .invalidLayer3 _ => invalidHeaderRows[6]?
  | .invalidBitrateFree _ _ => invalidHeaderRows[7]?
  | .invalidBitrateBad _ _ => invalidHeaderRows[8]?
  | .invalidSampleRate _ _ _ => invalidHeaderRows[9]?
  | i => i.frameBits?.map fun f => frameHeaderRow f.bri.toNat f.sri.toNat

/-! ### The table's words -/

/-- `n` bytes of a number, most significant first. -/
def bytesBE : Nat → Nat → List Byte
  | 0, _ => []
  | n + 1, w => BitVec.ofNat 8 (w >>> (8 * n)) :: bytesBE n w

/-- The four formats a row of the table may have bits in, told apart by how many bits it gives (log entry 23): PHASE in
3 bits, FHDR in 32, FHDR+MARKER in 64 (the header the first word, the marker the second), TAGHDR in 80. -/
inductive TableFormat where
  | phase | header | marked | tag
deriving DecidableEq, Repr

def tableFormat (nbits : Nat) : TableFormat :=
  if nbits ≤ 8 then .phase else if nbits ≤ 32 then .header else if nbits ≤ 64 then .marked else .tag

/-- The bytes, from POS on, of an instruction whose bits the table numbers as `w` (big-endian words, R56; the top byte
of the 80-bit pattern of a tag is the byte at the lowest offset, R74). -/
def tableBytes (nbits w : Nat) : List Byte :=
  match tableFormat nbits with
  | .phase => []
  | .header => bytesBE 4 w
  | .marked => bytesBE 4 w ++ List.replicate 32 0#8 ++ bytesBE 4 (w >>> 32)
  | .tag => bytesBE 10 w

/-- The phase that looks for an instruction of the table's format; for a PHASE row the phase its bits name. -/
def tablePhase (nbits w : Nat) : Phase :=
  match tableFormat nbits with
  | .phase => (phaseOfCode (BitVec.ofNat 3 w)).getD .idle
  | .header => .walk
  | .marked => .metadata
  | .tag => .tag

/-- The instruction the decoder reads from an instruction whose bits are `w`, numbered as the table numbers them. -/
def decodeTableWord (nbits w : Nat) : Option Instr :=
  match tableFormat nbits with
  | .phase => (decodePhase (BitVec.ofNat 3 w)).toOption
  | _ => (decode (tablePhase nbits w) (tableBytes nbits w)).toOption

end Sys2Proof
end

