-- ==== Sys2Proof/Machine/State.lean ====
section
/-! DEFINITION. What the block remembers (`10_state.md`), the byte source and the host's commands it is run with, and
the reasons a step can stop. -/

namespace Sys2Proof.Machine

/-- The contents of the byte source (R50, R52): (offset, byte) cells, offsets strictly rising. An offset that is not
listed holds no byte, so a read that reaches it comes back short (log entry 6). -/
abbrev Memory := List Host.Cell

/-- How the read port answers one read (R55, R66; log entry 7). -/
inductive PortAnswer where
  | serve           -- rd_err = 0 and every byte the source has there
  | error           -- rd_err = 1
  | short (n : Nat) -- rd_err = 0 and at most n bytes
  | silent          -- no answer, ever (R236)
deriving DecidableEq, Repr

/-- What the host asserts at one step boundary (R30, R176, R220; log entry 10). -/
inductive HostInput where
  | quiet                     -- nothing: the sequencer may take a step of its own
  | start (sizeIn : Nat)      -- the start port, with size_in
  | abort                     -- the abort port
  | abortStart (sizeIn : Nat) -- both ports together
  | hardwareReset             -- hardware reset
deriving DecidableEq, Repr

/-- One request on the read port (R55). -/
structure ReadReq where
  /-- `rd_off`, `AW` bits (log entry 1). -/
  off : Nat
  /-- `rd_len`, 4 bits. -/
  len : BitVec 4
deriving DecidableEq, Repr

/-- The result of a combinational function that was run as an instruction (log entry 15). -/
inductive FnResult where
  | none
  | bits (n : Nat)             -- EXTRACT
  | header (r : ParseResult)   -- PARSE
  | length (n : Nat)           -- FLEN
  | verdict (b : Bool)         -- FITS
  | position (n : Nat)         -- TAGSKIP, METASKIP
  | count (n : Nat)            -- COUNTFRAMES
  | parseError                 -- COUNTFRAMES over a source a read of which failed (R195)
deriving DecidableEq, Repr

/-- The state. The registers are those of R20; `SIZE`, `POS` and `CNT` are naturals (R7: `AW` is open, log entry 1). -/
structure State where
  /-- `PHASE` (R26). -/
  phase    : Phase
  /-- `SIZE` (R21). -/
  size     : Nat
  /-- `POS`, the program counter of the stream (R23). -/
  pos      : Nat
  /-- `CNT` (R22). -/
  cnt      : Nat
  /-- `STOP` (R27). -/
  stop     : Stop
  /-- `INV_CAUSE` (R28). -/
  invCause : Cause
  /-- `HDR`, transient (R25). -/
  hdr      : Word
  /-- `FH_VALID`, transient (R25). -/
  fhValid  : Bool
  /-- `FH_BR`, transient (R25). -/
  fhBr     : BitVec 9
  /-- `FH_SR`, transient (R25). -/
  fhSr     : BitVec 16
  /-- `FH_PAD`, transient (R25). -/
  fhPad    : BitVec 1
  /-- `FLEN`, transient (R25). -/
  flen     : BitVec 11
  /-- The byte source behind the read port (R50). -/
  mem      : Memory
  /-- How the port answers the reads to come, the next one first; past the end of the list every read is served. -/
  port     : List PortAnswer
  /-- What the host asserts at the step boundaries to come, the next one first; past the end nothing. -/
  host     : List HostInput
  /-- The requests put on the read port since the last accepted START, newest first (log entry 21). -/
  reads    : List ReadReq
  /-- The output of the last function run as an instruction (log entry 15). -/
  fout     : FnResult
  /-- The counter of the free values (log entry 5). -/
  draw     : Nat
deriving DecidableEq, Repr

/-- Why the machine is stuck. -/
inductive Fault where
  /-- Raised by a step or a function that reads, when the port never answers (R236, U22): the block waits for ever and
  takes no ABORT. Safe: the hardware does not go on either. -/
  | readNeverAnswered
deriving DecidableEq, Repr

/-- Why an instruction has no meaning. -/
inductive Refusal where
  /-- Raised by no arm of exec: every instruction of the table has its meaning. Safe. -/
  | notModelled (mnemonic : String)
  /-- Raised by EXTRACT on operands outside R101, where R102 says that a model refuses the call (D11). Safe. -/
  | extractOutsidePrecondition
  /-- Raised by a read that extends past SIZE, to which R60 gives no meaning (D21); no instruction reaches it. Safe. -/
  | readOutsideSource
deriving DecidableEq, Repr

/-- After hardware reset (R220): `IDLE`, `NONE`, `NONE`. The spec gives SIZE, POS, CNT and the transient registers no
value; they are zero here (DESIGN CHOICE, log entries 3 and 4). No source is in place and nothing is asserted. -/
def State.reset : State where
  phase    := .idle
  size     := 0
  pos      := 0
  cnt      := 0
  stop     := .none
  invCause := .none
  hdr      := 0#32
  fhValid  := false
  fhBr     := 0#9
  fhSr     := 0#16
  fhPad    := 0#1
  flen     := 0#11
  mem      := []
  port     := []
  host     := []
  reads    := []
  fout     := .none
  draw     := 0

end Sys2Proof.Machine
end

