-- ==== Sys2Proof/Machine/Operands.lean ====
section
/-! DEFINITION. The combinational functions of one word or of numbers: the extractor, the parser, the frame length, the
fit test and the tag size (`40_extract.md` to `43_tagskip.md`). -/

namespace Sys2Proof.Machine

/-! ### The extractor -/

/-- The field of R100 for operands inside R101: `v[start : lo]` in the notation of R9, which is the shift and the mask of
R100's pseudocode (mask and remainder agree). -/
def extractBits (v : Word) (startBit width : Nat) : Nat :=
  v.toNat >>> (startBit + 1 - width) % 2 ^ width

/-- `EXTRACT` (R100): no value outside its precondition (R102). -/
def extract (v : Word) (startBit width : Nat) : Option Nat :=
  if extractInRange startBit width then some (extractBits v startBit width) else none

/-! ### The parser -/

/-- The fields of a header word, by the extractor's calls of R76. -/
def syncField (h : Word) : Nat := extractBits h 31 11
def versionField (h : Word) : Nat := extractBits h 20 2
def layerField (h : Word) : Nat := extractBits h 18 2
def bitrateIndex (h : Word) : Nat := extractBits h 15 4
def sampleRateIndex (h : Word) : Nat := extractBits h 11 2
def paddingField (h : Word) : Nat := extractBits h 9 1

/-- `PARSE` (R110): the five checks in order, then the tables. An index without a table entry fails the check of that
table (R114, R115). -/
def parse (h : Word) : ParseResult :=
  if syncField h ≠ Config.syncValue.toNat then .invalid .sync
  else if versionField h ≠ Config.versionMpeg1.toNat then .invalid .version
  else if layerField h ≠ Config.layerIII.toNat then .invalid .layer
  else
    match bitrateKbps (BitVec.ofNat 4 (bitrateIndex h)) with
    | none => .invalid .bitrate
    | some kbps =>
      match sampleRateHz (BitVec.ofNat 2 (sampleRateIndex h)) with
      | none => .invalid .sampleRate
      | some hz => .valid ⟨kbps, hz, BitVec.ofNat 1 (paddingField h)⟩

/-! ### The frame length -/

/-- `FLEN` (R130): the exact product, one floor, then the padding. -/
def frameLength (kbps hz padding : Nat) : Nat :=
  Config.flenCoeff * kbps / hz + padding

/-- The length of a parsed header's frame. -/
def headerLength (f : FrameHeader) : Nat :=
  frameLength f.kbps f.hz f.padding.toNat

/-- `FITS` (R134). -/
def fits (len rem : Nat) : Bool :=
  decide (0 < len) && decide (len ≤ rem)

/-! ### The tag size -/

/-- The low seven bits of a size byte (R143). -/
def low7 (b : Byte) : BitVec 7 := b.setWidth 7

/-- The synchsafe size (R143): the low seven bits of the four bytes side by side, `b6` the most significant. -/
def synchsafe (b6 b7 b8 b9 : Byte) : Nat := (low7 b6 ++ low7 b7 ++ low7 b8 ++ low7 b9).toNat

/-- The position after a tag at `pos` (R144), cut off at the end of the source. -/
def tagEnd (pos tagSize size : Nat) : Nat :=
  min (pos + Config.tagHdrLen + tagSize) size

end Sys2Proof.Machine
end

