-- ==== Sys2Proof/Machine/Ops.lean ====
section
/-! DEFINITION. The operations the meanings share: the byte source and its read port (`20_memory.md`), the registers a
step writes, the stop entry and the fault entry (`60_exceptions.md` R200, R203). -/

namespace Sys2Proof.Machine

open Host

/-! ### The byte source -/

/-- The byte at an offset, where the source has one (R52). -/
def Memory.read : Memory → Nat → Option Byte
  | [], _ => none
  | (a, b) :: m, off => if a = off then some b else Memory.read m off

/-- `readAt` (R52): the bytes from `off` on, at most `len`, fewer only where the source ends. -/
def Memory.readAt (m : Memory) (off : Nat) : Nat → List Byte
  | 0 => []
  | len + 1 =>
    match m.read off with
    | none => []
    | some b => b :: Memory.readAt m (off + 1) len

/-- Put a byte behind the port. The block has no store (R51): this is how a source comes to be in place (R225). -/
def Memory.write : Memory → Nat → Byte → Memory
  | [], off, v => [(off, v)]
  | (a, b) :: m, off, v =>
    if off < a then (off, v) :: (a, b) :: m
    else if off = a then (off, v) :: m
    else (a, b) :: Memory.write m off v

/-- The source that holds the bytes of a list, the first at offset 0. -/
def Memory.ofBytes (bs : List Byte) : Memory :=
  bs.zipIdx.map fun x => (x.2, x.1)

/-- The canonical form: offsets strictly rising. (An unlisted offset holds no byte, so no entry can equal it.) -/
def Memory.wf : Memory → Bool
  | [] => true
  | [_] => true
  | (a, _) :: (b, v) :: m => decide (a < b) && Memory.wf ((b, v) :: m)

/-- Every offset below `size` holds a byte: the source is whole (R225). -/
def Memory.whole (m : Memory) (size : Nat) : Bool :=
  (List.range size).all fun off => (m.read off).isSome

/-! ### The read port -/

/-- An answer of the port (R55). `rd_data` is held lane by lane, so that a lane with a value stays a value beside an
unspecified one (log entry 8). -/
structure ReadAnswer where
  /-- Lanes 0 to 9 of `rd_data`. -/
  lanes : List Byte
  /-- `rd_n`, 4 bits. -/
  n     : BitVec 4
  /-- `rd_err`. -/
  err   : Bool
deriving DecidableEq, Repr

/-- Lane `i` (R55). -/
def ReadAnswer.lane (a : ReadAnswer) (i : Nat) : Byte := a.lanes.getD i 0#8

/-- `rd_data`, 80 bits, lane `i` in bits 8i+7 : 8i (R55). -/
def ReadAnswer.data (a : ReadAnswer) : BitVec 80 :=
  a.lane 9 ++ a.lane 8 ++ a.lane 7 ++ a.lane 6 ++ a.lane 5 ++ a.lane 4 ++ a.lane 3 ++ a.lane 2 ++ a.lane 1 ++ a.lane 0

/-- The ten lanes: lane i the byte at `rd_off + i`; at and above `rd_n` unspecified (R55, log entry 8). -/
def dataLanes (s : State) (bs : List Byte) : List Byte :=
  (List.range 10).map fun i => (bs[i]?).getD (Config.freeLane s.draw s.reads.length i)

/-- An answer with data: the bytes, and how many they are (R52, R55). -/
def dataAnswer (s : State) (bs : List Byte) : ReadAnswer :=
  ⟨dataLanes s bs, BitVec.ofNat 4 bs.length, false⟩

/-- What the source answers to a request; none where it never answers (R236). -/
def portAnswer (s : State) (off len : Nat) : Option ReadAnswer :=
  match s.port.head?.getD .serve with
  | .serve => some (dataAnswer s (s.mem.readAt off len))
  | .error => some ⟨dataLanes s [], Config.freeRdN s.draw s.reads.length, true⟩
  | .short k => some (dataAnswer s ((s.mem.readAt off len).take k))
  | .silent => none

/-- The state once a request was put on the port and answered. -/
def State.afterRead (s : State) (off len : Nat) : State :=
  { s with reads := ⟨off, BitVec.ofNat 4 len⟩ :: s.reads, port := s.port.tail }

/-- The result of a part of a step that may read. -/
inductive Res (α : Type) where
  | ok (a : α) (s : State)
  | ioFail (s : State) -- a read failed (R66)
  | silent             -- the port never answers (R236)
  | outside            -- a read past SIZE (R60)
deriving DecidableEq, Repr

/-- Go on with the value where there is one. -/
def Res.andThen {α β : Type} (r : Res α) (k : α → State → Res β) : Res β :=
  match r with
  | .ok a s => k a s
  | .ioFail s => .ioFail s
  | .silent => .silent
  | .outside => .outside

/-- `MemRead(off, len)` through the port (R12, R52, R66): defined for `off + len ≤ SIZE`; it fails when the port answers
`rd_err = 1` or fewer bytes than requested. The bytes are the first `len` lanes of `rd_data`. The block asks for 4 or 10
bytes (R58), which 4 bits hold. -/
def memRead (off len : Nat) (s : State) : Res (List Byte) :=
  if off + len ≤ s.size then
    match portAnswer s off len with
    | none => .silent
    | some a =>
      if a.err || decide (a.n.toNat < len) then .ioFail (s.afterRead off len)
      else .ok (a.lanes.take len) (s.afterRead off len)
  else .outside

/-- `MemRead32BE(off)` (R12, R56). -/
def memRead32 (off : Nat) (s : State) : Res Word :=
  (memRead off Config.headerLen s).andThen fun bs s1 =>
    match bs with
    | [b0, b1, b2, b3] => .ok (be32 b0 b1 b2 b3) s1
    | _ => .ioFail s1

/-! ### Registers -/

/-- `rem = SIZE - POS` (R10, R24). -/
def State.rem (s : State) : Nat := s.size - s.pos

/-- The transient registers a header word leaves (R20, R25, R110, R130): HDR and the verdict always, the fields and the
length of a valid header only. -/
def State.writeHeader (s : State) (h : Word) (r : ParseResult) : State :=
  match r with
  | .invalid _ => { s with hdr := h, fhValid := false }
  | .valid f =>
    { s with
      hdr := h
      fhValid := true
      fhBr := BitVec.ofNat 9 f.kbps
      fhSr := BitVec.ofNat 16 f.hz
      fhPad := f.padding
      flen := BitVec.ofNat 11 (headerLength f) }

/-- Between steps the transient registers hold unspecified values (R25): free values, drawn afresh (log entry 5). -/
def State.scrub (s : State) : State :=
  { s with
    hdr := Config.freeHdr s.draw
    fhValid := Config.freeFhValid s.draw
    fhBr := Config.freeFhBr s.draw
    fhSr := Config.freeFhSr s.draw
    fhPad := Config.freeFhPad s.draw
    flen := Config.freeFlen s.draw
    draw := s.draw + 1 }

/-! ### Ending a pass -/

/-- The stop entry `raise Stop(reason)` (R200): STOP and PHASE, nothing else. -/
def raiseStop (reason : Stop) (s : State) : State :=
  { s with stop := reason, phase := .done }

/-- The stop entry of an invalid header (R191, R200): the cause is recorded too. -/
def raiseInvalid (c : Cause) (s : State) : State :=
  raiseStop .invalidHeader { s with invCause := c }

/-- The fault entry `raise Fault(IO_ERROR)` (R203): POS and CNT keep their values. There is no return from it but a new
START (R204). -/
def raiseFault (s : State) : State :=
  { s with stop := .ioError, phase := .fault }

/-- Hardware reset (R220, R221): three registers have a value after it, every other register an unspecified one. The
byte source and the inputs are unaffected. -/
def hardwareReset (s : State) : State :=
  { s.scrub with
    phase := .idle
    stop := .none
    invCause := .none
    size := Config.freeSize s.draw
    pos := Config.freePos s.draw
    cnt := Config.freeCnt s.draw }

/-- The outcome of a part of a step: its effect on the state, the fault entry where a read failed, a stuck machine
where the port never answers, no meaning for a read past SIZE. -/
def Res.finish {α : Type} (r : Res α) (k : α → State → State) : Outcome State Fault Refusal :=
  match r with
  | .ok a s => .next (k a s)
  | .ioFail s => .next (raiseFault s)
  | .silent => .fault .readNeverAnswered
  | .outside => .refused .readOutsideSource

/-- One outcome after another. -/
def andThen (o : Outcome State Fault Refusal) (k : State → Outcome State Fault Refusal) : Outcome State Fault Refusal :=
  match o with
  | .next s => k s
  | .fault r => .fault r
  | .refused r => .refused r

/-! ### A header word in its phase -/

/-- Leave the metadata-frame skip at a position (R163). -/
def enterWalk (pos : Nat) (s : State) : State :=
  { s with pos := pos, phase := .walk }

/-- Steps 2 to 5 of a Walker iteration on a word that was read and parsed (R165 to R168, R198). -/
def walkVerdict (r : ParseResult) (h : Word) (s : State) : State :=
  match r with
  | .invalid c => raiseInvalid c (s.writeHeader h r)
  | .valid f =>
    if fits (headerLength f) s.rem then
      { s.writeHeader h r with cnt := s.cnt + 1, pos := s.pos + headerLength f }
    else raiseStop .truncatedFrame (s.writeHeader h r)

/-- A Walker iteration whose word at POS is known: the loop condition first (R164), then the read, then the verdict. -/
def walkOnHeader (r : ParseResult) (h : Word) (s : State) : State :=
  if s.rem < Config.headerLen then raiseStop .endOfSource s
  else walkVerdict r h (s.afterRead s.pos Config.headerLen)

/-- The metadata-frame skip whose word at POS is known, and whether one of the markers stands at POS + 36 (R150 to
R155): the frame is skipped when it is valid, fits and is marked. -/
def metaOnHeader (r : ParseResult) (h : Word) (marked : Bool) (s : State) : State :=
  if s.rem < Config.metaMin then enterWalk s.pos s
  else
    match r with
    | .invalid _ => enterWalk s.pos ((s.afterRead s.pos Config.headerLen).writeHeader h r)
    | .valid f =>
      if fits (headerLength f) s.rem then
        enterWalk (if marked then s.pos + headerLength f else s.pos)
          (((s.afterRead s.pos Config.headerLen).writeHeader h r).afterRead (s.pos + Config.metaOffset) 4)
      else enterWalk s.pos ((s.afterRead s.pos Config.headerLen).writeHeader h r)

/-- An element that is a header word without a marker: looked for in WALK, where it is a frame or ends the pass, and
tested in META, where it is left for the Walker (R80, R82, R152, R156). In the other phases nothing looks for it and
nothing happens (R70, log entry 12). -/
def headerElement (r : ParseResult) (h : Word) (s : State) : Outcome State Fault Refusal :=
  match s.phase with
  | .walk => .next (walkOnHeader r h s)
  | .metadata => .next (metaOnHeader r h false s)
  | .idle => .next s
  | .tag => .next s
  | .done => .next s
  | .fault => .next s

/-- An element that is a header word with a marker: skipped in META (R155), an ordinary audio frame anywhere else in
the stream (R156). -/
def markedElement (h : Word) (s : State) : Outcome State Fault Refusal :=
  match s.phase with
  | .walk => .next (walkOnHeader (parse h) h s)
  | .metadata => .next (metaOnHeader (parse h) h true s)
  | .idle => .next s
  | .tag => .next s
  | .done => .next s
  | .fault => .next s

end Sys2Proof.Machine
end

