-- ==== Sys2Proof/Machine/Flags.lean ====
section
/-! DEFINITION. The status flags and the result ports (`10_state.md` R29 to R31), and the port encodings (R26 to R28). -/

namespace Sys2Proof.Machine

/-- `busy`: a pass is running (R29). -/
def State.busy (s : State) : Bool :=
  s.phase == .tag || s.phase == .metadata || s.phase == .walk

/-- `done`: the pass has ended (R29). -/
def State.done (s : State) : Bool :=
  s.phase == .done || s.phase == .fault

/-- `error`: it ended without a result (R29, R195). -/
def State.error (s : State) : Bool :=
  s.phase == .fault

/-- The code of STOP on the port `stop` (R27, D20). -/
def stopCode : Stop → BitVec 3
  | .none => 0#3
  | .endOfSource => 1#3
  | .invalidHeader => 2#3
  | .truncatedFrame => 3#3
  | .ioError => 4#3

/-- The code of INV_CAUSE on the port `inv_cause` (R28, D20): the number of the check. -/
def causeCode : Cause → BitVec 3
  | .none => 0#3
  | .sync => 1#3
  | .version => 2#3
  | .layer => 3#3
  | .bitrate => 4#3
  | .sampleRate => 5#3

/-- The read-only ports the host sees (R30). -/
structure Ports where
  busy     : Bool
  done     : Bool
  error    : Bool
  count    : Nat
  stop     : BitVec 3
  invCause : BitVec 3
  posOut   : Nat
deriving DecidableEq, Repr

/-- The ports show the live registers (R31). -/
def State.ports (s : State) : Ports :=
  ⟨s.busy, s.done, s.error, s.cnt, stopCode s.stop, causeCode s.invCause, s.pos⟩

/-- The result of a pass: the count, when `done = 1` and `error = 0` (R30, R169). -/
def State.result (s : State) : Option Nat :=
  if s.done && !s.error then some s.cnt else none

/-- What a wrapper of the source's behaviour (b) reports outside the block (R195): the offset of a ParseError. The
block itself takes behaviour (a) (R166, D1, log entry 24). -/
def State.wrapperParseError (s : State) : Option Nat :=
  if s.done && !s.error && s.stop == .invalidHeader then some s.pos else none

end Sys2Proof.Machine
end

