-- ==== Sys2Proof/Machine/Commands.lean ====
section
/-! DEFINITION. The host commands (`45_walker.md` R160, R175, R176). -/

namespace Sys2Proof.Machine

open Host

/-- `START(size_in)` (R160): ignored while busy (R176). The model's own list of reads begins again with the pass. -/
def execStart (sizeIn : Nat) (s : State) : Outcome State Fault Refusal :=
  if s.busy then .next s
  else
    .next { s with
            size := sizeIn
            pos := 0
            cnt := 0
            stop := if sizeIn < 4 then .endOfSource else .none
            invCause := .none
            phase := if sizeIn < 4 then .done else .tag
            reads := [] }

/-- `ABORT` (R175): ignored while not busy (R176). -/
def execAbort (s : State) : Outcome State Fault Refusal :=
  if s.busy then .next { s with phase := .idle } else .next s

end Sys2Proof.Machine
end

