-- ==== Sys2Proof/Machine/MetaSkipper.lean ====
section
/-! DEFINITION. The Metadata-Frame Skipper (`44_metaskip.md`) and the step that applies it (`45_walker.md` R163). -/

namespace Sys2Proof.Machine

open Host

/-- Whether four bytes are one of the two markers (R75, R154). -/
def isMarker (m : Word) : Bool :=
  m == Config.markerVbr || m == Config.markerCbr

/-- METASKIP once the header word is read, in the state after that read (R152 to R155): an invalid header or a frame
that does not fit leaves the position; otherwise the marker is read and decides. -/
def metaSkipRest (pos : Nat) (h : Word) (s : State) : Res Nat :=
  match parse h with
  | .invalid c => .ok pos (s.writeHeader h (.invalid c))
  | .valid f =>
    if fits (headerLength f) (s.size - pos) then
      (memRead32 (pos + Config.metaOffset) (s.writeHeader h (.valid f))).andThen fun m s1 =>
        .ok (if isMarker m then pos + headerLength f else pos) s1
    else .ok pos (s.writeHeader h (.valid f))

/-- `METASKIP(pos)` (R150): the guard first (R151). -/
def metaSkip (pos : Nat) (s : State) : Res Nat :=
  if s.size - pos < Config.metaMin then .ok pos s
  else (memRead32 pos s).andThen (metaSkipRest pos)

/-- `META_STEP` (R163); in another phase it is not enabled and nothing happens (log entry 12). -/
def execMetaStep (s : State) : Outcome State Fault Refusal :=
  match s.phase with
  | .metadata => (metaSkip s.pos s).finish enterWalk
  | .idle => .next s
  | .tag => .next s
  | .walk => .next s
  | .done => .next s
  | .fault => .next s

/-- `META_VBR` (R155). -/
def execMetaVbr (q : BitVec 1) (bri : BitVec 4) (sri : BitVec 2) (p : BitVec 1) (w : BitVec 9) (s : State) :
    Outcome State Fault Refusal :=
  markedElement (frameWord ⟨q, bri, sri, p, w⟩) s

/-- `META_CBR` (R155): the same effect as the other marker. -/
def execMetaCbr (q : BitVec 1) (bri : BitVec 4) (sri : BitVec 2) (p : BitVec 1) (w : BitVec 9) (s : State) :
    Outcome State Fault Refusal :=
  markedElement (frameWord ⟨q, bri, sri, p, w⟩) s

/-- `METASKIP` as an instruction (R150): the position is its result, the transient registers are written. -/
def execMetaskip (pos : Nat) (s : State) : Outcome State Fault Refusal :=
  (metaSkip pos s).finish fun p s1 => { s1 with fout := .position p }

end Sys2Proof.Machine
end

