-- ==== Sys2Proof/Machine/TagSkipper.lean ====
section
/-! DEFINITION. The Tag Skipper (`43_tagskip.md`) and the step that applies it (`45_walker.md` R162). -/

namespace Sys2Proof.Machine

open Host

/-- `TAGSKIP(pos)` (R140): the guard, the identifier, the size, the clamp. -/
def tagSkip (pos : Nat) (s : State) : Res Nat :=
  if s.size - pos < Config.tagHdrLen then .ok pos s
  else
    (memRead pos Config.tagHdrLen s).andThen fun bs s1 =>
      match bs with
      | [t0, t1, t2, _, _, _, t6, t7, t8, t9] =>
        if t0 = Config.tagId0 ∧ t1 = Config.tagId1 ∧ t2 = Config.tagId2 then
          .ok (tagEnd pos (synchsafe t6 t7 t8 t9) s.size) s1
        else .ok pos s1
      | _ => .ioFail s1

/-- `TAG_STEP` (R162); in another phase it is not enabled and nothing happens (log entry 12). -/
def execTagStep (s : State) : Outcome State Fault Refusal :=
  match s.phase with
  | .tag => (tagSkip s.pos s).finish fun p s1 => { s1 with pos := p, phase := .metadata }
  | .idle => .next s
  | .metadata => .next s
  | .walk => .next s
  | .done => .next s
  | .fault => .next s

/-- `TAG` (R70, R140 to R145): the element at POS in phase TAG, skipped and not counted. Where fewer than 10 bytes remain
no tag is possible (R141). Bytes that spell a tag in another phase are no tag (R70). -/
def execTag (_ver _rev _flags s6 s7 s8 s9 : Byte) (s : State) : Outcome State Fault Refusal :=
  match s.phase with
  | .tag =>
    if s.rem < Config.tagHdrLen then .next { s with phase := .metadata }
    else
      .next { s.afterRead s.pos Config.tagHdrLen with
              pos := tagEnd s.pos (synchsafe s6 s7 s8 s9) s.size
              phase := .metadata }
  | .idle => .next s
  | .metadata => .next s
  | .walk => .next s
  | .done => .next s
  | .fault => .next s

/-- `TAGSKIP` as an instruction (R140): the position is its result (log entry 15). -/
def execTagskip (pos : Nat) (s : State) : Outcome State Fault Refusal :=
  (tagSkip pos s).finish fun p s1 => { s1 with fout := .position p }

end Sys2Proof.Machine
end

