-- ==== Sys2Proof/Machine/Walker.lean ====
section
/-! DEFINITION. The internal step of the Frame Walker (`45_walker.md` R165). -/

namespace Sys2Proof.Machine

open Host

/-- `WALK_STEP` (R165): one iteration of the loop. In another phase it is not enabled and nothing happens (log
entry 12). -/
def execWalkStep (s : State) : Outcome State Fault Refusal :=
  match s.phase with
  | .walk =>
    if s.rem < Config.headerLen then .next (raiseStop .endOfSource s)
    else (memRead32 s.pos s).finish fun h s1 => walkVerdict (parse h) h s1
  | .idle => .next s
  | .tag => .next s
  | .metadata => .next s
  | .done => .next s
  | .fault => .next s

end Sys2Proof.Machine
end

