-- ==== Sys2Proof/Machine/CountFrames.lean ====
section
/-! DEFINITION. The whole pass: `COUNTFRAMES` as an instruction, and as the function of R172 (`45_walker.md`). -/

namespace Sys2Proof.Machine

open Host

/-- WALK steps until the pass is over, at most `fuel` of them (R171: SIZE + 1 are enough). -/
def walkLoop : Nat → State → Outcome State Fault Refusal
  | 0, s => .next s
  | fuel + 1, s =>
    if s.phase = .walk then andThen (execWalkStep s) (walkLoop fuel) else .next s

/-- What the entry point returns: a count, or a ParseError when a read failed (R195). -/
def passResult (s : State) : FnResult :=
  if s.error then .parseError else .count s.cnt

/-- `COUNTFRAMES` (R172): START, the TAG step, the META step, WALK steps until the pass is over, then its result. While
busy its START is ignored and nothing happens (R176, log entry 19). -/
def execCountframes (sizeIn : Nat) (s : State) : Outcome State Fault Refusal :=
  if s.busy then .next s
  else
    andThen (andThen (andThen (andThen (execStart sizeIn s) execTagStep) execMetaStep) (walkLoop (sizeIn + 1)))
      fun t => .next { t with fout := passResult t }

/-! ### The pseudocode of R172, over a total source -/

/-- `MemRead32BE` of a total source (R54, R56). -/
def srcWord (src : Nat → Byte) (off : Nat) : Word :=
  be32 (src off) (src (off + 1)) (src (off + 2)) (src (off + 3))

/-- `TAGSKIP` over a total source (R140). -/
def tagSkipOf (src : Nat → Byte) (size pos : Nat) : Nat :=
  if size - pos < 10 then pos
  else if src pos = Config.tagId0 ∧ src (pos + 1) = Config.tagId1 ∧ src (pos + 2) = Config.tagId2 then
    min (pos + 10 + synchsafe (src (pos + 6)) (src (pos + 7)) (src (pos + 8)) (src (pos + 9))) size
  else pos

/-- `METASKIP` over a total source (R150). -/
def metaSkipOf (src : Nat → Byte) (size pos : Nat) : Nat :=
  if size - pos < 44 then pos
  else
    match parse (srcWord src pos) with
    | .invalid _ => pos
    | .valid f =>
      if headerLength f = 0 ∨ size - pos < headerLength f then pos
      else if isMarker (srcWord src (pos + 36)) then pos + headerLength f
      else pos

/-- The while loop of R172, at most `fuel` times round: the count. -/
def countLoop (src : Nat → Byte) (size : Nat) : Nat → Nat → Nat → Nat
  | 0, _, cnt => cnt
  | fuel + 1, pos, cnt =>
    if size - pos < 4 then cnt
    else
      match parse (srcWord src pos) with
      | .invalid _ => cnt
      | .valid f =>
        if headerLength f = 0 ∨ size - pos < headerLength f then cnt
        else countLoop src size fuel (pos + headerLength f) (cnt + 1)

/-- `COUNTFRAMES(Src, SIZE)` (R172). -/
def countFrames (src : Nat → Byte) (size : Nat) : Nat :=
  if size < 4 then 0
  else countLoop src size (size + 1) (metaSkipOf src size (tagSkipOf src size 0)) 0

end Sys2Proof.Machine
end

