-- ==== Sys2Proof/Machine/Frames.lean ====
section
/-! DEFINITION. The audio frames `FRAME_B<i>_S<j>` (`45_walker.md` R165, R168; lengths `42_framelen.md` R130). -/

namespace Sys2Proof.Machine

open Host

/-- An audio frame of bitrate index `bri` and sample-rate index `sri`, whose row gives `kbps` and `hz`: in WALK counted
and stepped over if it fits, in META the header test of a frame without a marker (R156). -/
def frameElement (bri : BitVec 4) (sri : BitVec 2) (kbps hz : Nat) (q p : BitVec 1) (w : BitVec 9) (s : State) :
    Outcome State Fault Refusal :=
  headerElement (.valid ⟨kbps, hz, p⟩) (frameWord ⟨q, bri, sri, p, w⟩) s

def execFrameB1S0 (q p : BitVec 1) (w : BitVec 9) (s : State) : Outcome State Fault Refusal :=
  frameElement 1#4 0#2 32 44100 q p w s

def execFrameB1S1 (q p : BitVec 1) (w : BitVec 9) (s : State) : Outcome State Fault Refusal :=
  frameElement 1#4 1#2 32 48000 q p w s

def execFrameB1S2 (q p : BitVec 1) (w : BitVec 9) (s : State) : Outcome State Fault Refusal :=
  frameElement 1#4 2#2 32 32000 q p w s

def execFrameB2S0 (q p : BitVec 1) (w : BitVec 9) (s : State) : Outcome State Fault Refusal :=
  frameElement 2#4 0#2 40 44100 q p w s

def execFrameB2S1 (q p : BitVec 1) (w : BitVec 9) (s : State) : Outcome State Fault Refusal :=
  frameElement 2#4 1#2 40 48000 q p w s

def execFrameB2S2 (q p : BitVec 1) (w : BitVec 9) (s : State) : Outcome State Fault Refusal :=
  frameElement 2#4 2#2 40 32000 q p w s

def execFrameB3S0 (q p : BitVec 1) (w : BitVec 9) (s : State) : Outcome State Fault Refusal :=
  frameElement 3#4 0#2 48 44100 q p w s

def execFrameB3S1 (q p : BitVec 1) (w : BitVec 9) (s : State) : Outcome State Fault Refusal :=
  frameElement 3#4 1#2 48 48000 q p w s

def execFrameB3S2 (q p : BitVec 1) (w : BitVec 9) (s : State) : Outcome State Fault Refusal :=
  frameElement 3#4 2#2 48 32000 q p w s

def execFrameB4S0 (q p : BitVec 1) (w : BitVec 9) (s : State) : Outcome State Fault Refusal :=
  frameElement 4#4 0#2 56 44100 q p w s

def execFrameB4S1 (q p : BitVec 1) (w : BitVec 9) (s : State) : Outcome State Fault Refusal :=
  frameElement 4#4 1#2 56 48000 q p w s

def execFrameB4S2 (q p : BitVec 1) (w : BitVec 9) (s : State) : Outcome State Fault Refusal :=
  frameElement 4#4 2#2 56 32000 q p w s

def execFrameB5S0 (q p : BitVec 1) (w : BitVec 9) (s : State) : Outcome State Fault Refusal :=
  frameElement 5#4 0#2 64 44100 q p w s

def execFrameB5S1 (q p : BitVec 1) (w : BitVec 9) (s : State) : Outcome State Fault Refusal :=
  frameElement 5#4 1#2 64 48000 q p w s

def execFrameB5S2 (q p : BitVec 1) (w : BitVec 9) (s : State) : Outcome State Fault Refusal :=
  frameElement 5#4 2#2 64 32000 q p w s

def execFrameB6S0 (q p : BitVec 1) (w : BitVec 9) (s : State) : Outcome State Fault Refusal :=
  frameElement 6#4 0#2 80 44100 q p w s

def execFrameB6S1 (q p : BitVec 1) (w : BitVec 9) (s : State) : Outcome State Fault Refusal :=
  frameElement 6#4 1#2 80 48000 q p w s

def execFrameB6S2 (q p : BitVec 1) (w : BitVec 9) (s : State) : Outcome State Fault Refusal :=
  frameElement 6#4 2#2 80 32000 q p w s

def execFrameB7S0 (q p : BitVec 1) (w : BitVec 9) (s : State) : Outcome State Fault Refusal :=
  frameElement 7#4 0#2 96 44100 q p w s

def execFrameB7S1 (q p : BitVec 1) (w : BitVec 9) (s : State) : Outcome State Fault Refusal :=
  frameElement 7#4 1#2 96 48000 q p w s

def execFrameB7S2 (q p : BitVec 1) (w : BitVec 9) (s : State) : Outcome State Fault Refusal :=
  frameElement 7#4 2#2 96 32000 q p w s

def execFrameB8S0 (q p : BitVec 1) (w : BitVec 9) (s : State) : Outcome State Fault Refusal :=
  frameElement 8#4 0#2 112 44100 q p w s

def execFrameB8S1 (q p : BitVec 1) (w : BitVec 9) (s : State) : Outcome State Fault Refusal :=
  frameElement 8#4 1#2 112 48000 q p w s

def execFrameB8S2 (q p : BitVec 1) (w : BitVec 9) (s : State) : Outcome State Fault Refusal :=
  frameElement 8#4 2#2 112 32000 q p w s

def execFrameB9S0 (q p : BitVec 1) (w : BitVec 9) (s : State) : Outcome State Fault Refusal :=
  frameElement 9#4 0#2 128 44100 q p w s

def execFrameB9S1 (q p : BitVec 1) (w : BitVec 9) (s : State) : Outcome State Fault Refusal :=
  frameElement 9#4 1#2 128 48000 q p w s

def execFrameB9S2 (q p : BitVec 1) (w : BitVec 9) (s : State) : Outcome State Fault Refusal :=
  frameElement 9#4 2#2 128 32000 q p w s

def execFrameB10S0 (q p : BitVec 1) (w : BitVec 9) (s : State) : Outcome State Fault Refusal :=
  frameElement 10#4 0#2 160 44100 q p w s

def execFrameB10S1 (q p : BitVec 1) (w : BitVec 9) (s : State) : Outcome State Fault Refusal :=
  frameElement 10#4 1#2 160 48000 q p w s

def execFrameB10S2 (q p : BitVec 1) (w : BitVec 9) (s : State) : Outcome State Fault Refusal :=
  frameElement 10#4 2#2 160 32000 q p w s

def execFrameB11S0 (q p : BitVec 1) (w : BitVec 9) (s : State) : Outcome State Fault Refusal :=
  frameElement 11#4 0#2 192 44100 q p w s

def execFrameB11S1 (q p : BitVec 1) (w : BitVec 9) (s : State) : Outcome State Fault Refusal :=
  frameElement 11#4 1#2 192 48000 q p w s

def execFrameB11S2 (q p : BitVec 1) (w : BitVec 9) (s : State) : Outcome State Fault Refusal :=
  frameElement 11#4 2#2 192 32000 q p w s

def execFrameB12S0 (q p : BitVec 1) (w : BitVec 9) (s : State) : Outcome State Fault Refusal :=
  frameElement 12#4 0#2 224 44100 q p w s

def execFrameB12S1 (q p : BitVec 1) (w : BitVec 9) (s : State) : Outcome State Fault Refusal :=
  frameElement 12#4 1#2 224 48000 q p w s

def execFrameB12S2 (q p : BitVec 1) (w : BitVec 9) (s : State) : Outcome State Fault Refusal :=
  frameElement 12#4 2#2 224 32000 q p w s

def execFrameB13S0 (q p : BitVec 1) (w : BitVec 9) (s : State) : Outcome State Fault Refusal :=
  frameElement 13#4 0#2 256 44100 q p w s

def execFrameB13S1 (q p : BitVec 1) (w : BitVec 9) (s : State) : Outcome State Fault Refusal :=
  frameElement 13#4 1#2 256 48000 q p w s

def execFrameB13S2 (q p : BitVec 1) (w : BitVec 9) (s : State) : Outcome State Fault Refusal :=
  frameElement 13#4 2#2 256 32000 q p w s

def execFrameB14S0 (q p : BitVec 1) (w : BitVec 9) (s : State) : Outcome State Fault Refusal :=
  frameElement 14#4 0#2 320 44100 q p w s

def execFrameB14S1 (q p : BitVec 1) (w : BitVec 9) (s : State) : Outcome State Fault Refusal :=
  frameElement 14#4 1#2 320 48000 q p w s

def execFrameB14S2 (q p : BitVec 1) (w : BitVec 9) (s : State) : Outcome State Fault Refusal :=
  frameElement 14#4 2#2 320 32000 q p w s

end Sys2Proof.Machine
end

