-- ==== Sys2Proof/Machine/Functions.lean ====
section
/-! DEFINITION. The combinational functions of the table run as instructions (log entry 15): the result goes to the
model's own field `fout`, and the registers their rules name are written. -/

namespace Sys2Proof.Machine

open Host

/-- `EXTRACT` (R100, R103): reads and writes no register; refused outside R101 (R102). -/
def execExtract (v : Word) (startBit width : Nat) (s : State) : Outcome State Fault Refusal :=
  match extract v startBit width with
  | some n => .next { s with fout := .bits n }
  | none => .refused .extractOutsidePrecondition

/-- `PARSE` (R110): writes FH_VALID, and the three fields of a valid header. -/
def execParse (h : Word) (s : State) : Outcome State Fault Refusal :=
  match parse h with
  | .invalid c => .next { s with fhValid := false, fout := .header (.invalid c) }
  | .valid f =>
    .next { s with
            fhValid := true
            fhBr := BitVec.ofNat 9 f.kbps
            fhSr := BitVec.ofNat 16 f.hz
            fhPad := f.padding
            fout := .header (.valid f) }

/-- The length for any operands of the widths of FH_BR, FH_SR and FH_PAD: a free value for a sample rate of 0, which is
outside R130 (log entry 17). -/
def flenValue (kbps : BitVec 9) (hz : BitVec 16) (padding : BitVec 1) (draw : Nat) : Nat :=
  if hz = 0#16 then Config.freeZeroRateLength draw else frameLength kbps.toNat hz.toNat padding.toNat

/-- The FLEN register after a length: its 11 bits where it fits them (R20), else a free value (log entry 17). -/
def flenRegister (len draw : Nat) : BitVec 11 :=
  if len < 2048 then BitVec.ofNat 11 len else Config.freeWideFlen draw

/-- `FLEN` (R130): writes the transient FLEN register only. -/
def execFlen (kbps : BitVec 9) (hz : BitVec 16) (padding : BitVec 1) (s : State) : Outcome State Fault Refusal :=
  .next { s with
          flen := flenRegister (flenValue kbps hz padding s.draw) s.draw
          fout := .length (flenValue kbps hz padding s.draw)
          draw := s.draw + 1 }

/-- `FITS` (R134). -/
def execFits (len rem : Nat) (s : State) : Outcome State Fault Refusal :=
  .next { s with fout := .verdict (fits len rem) }

end Sys2Proof.Machine
end

