-- ==== Sys2Proof/Machine/Invalid.lean ====
section
/-! DEFINITION. The invalid header words (`30_encoding.md` R82): in WALK they end the pass normally with the cause of
their class (`45_walker.md` R166), in META they leave POS for the Walker (`44_metaskip.md` R152). -/

namespace Sys2Proof.Machine

open Host

/-- `INVALID_SYNC` (R111). -/
def execInvalidSync (sync : BitVec 11) (rest : BitVec 21) (s : State) : Outcome State Fault Refusal :=
  headerElement (.invalid .sync) (syncWord sync rest) s

/-- `INVALID_VERSION_0` (R112). -/
def execInvalidVersion0 (rest : BitVec 19) (s : State) : Outcome State Fault Refusal :=
  headerElement (.invalid .version) (versionWord 0b00#2 rest) s

/-- `INVALID_VERSION_1` (R112). -/
def execInvalidVersion1 (rest : BitVec 19) (s : State) : Outcome State Fault Refusal :=
  headerElement (.invalid .version) (versionWord 0b01#2 rest) s

/-- `INVALID_VERSION_2` (R112). -/
def execInvalidVersion2 (rest : BitVec 19) (s : State) : Outcome State Fault Refusal :=
  headerElement (.invalid .version) (versionWord 0b10#2 rest) s

/-- `INVALID_LAYER_0` (R113). -/
def execInvalidLayer0 (rest : BitVec 17) (s : State) : Outcome State Fault Refusal :=
  headerElement (.invalid .layer) (layerWord 0b00#2 rest) s

/-- `INVALID_LAYER_2` (R113). -/
def execInvalidLayer2 (rest : BitVec 17) (s : State) : Outcome State Fault Refusal :=
  headerElement (.invalid .layer) (layerWord 0b10#2 rest) s

/-- `INVALID_LAYER_3` (R113). -/
def execInvalidLayer3 (rest : BitVec 17) (s : State) : Outcome State Fault Refusal :=
  headerElement (.invalid .layer) (layerWord 0b11#2 rest) s

/-- `INVALID_BITRATE_FREE` (R114, U1). -/
def execInvalidBitrateFree (q : BitVec 1) (rest : BitVec 12) (s : State) : Outcome State Fault Refusal :=
  headerElement (.invalid .bitrate) (bitrateWord q 0#4 rest) s

/-- `INVALID_BITRATE_BAD` (R114, U2). -/
def execInvalidBitrateBad (q : BitVec 1) (rest : BitVec 12) (s : State) : Outcome State Fault Refusal :=
  headerElement (.invalid .bitrate) (bitrateWord q 15#4 rest) s

/-- `INVALID_SAMPLE_RATE` (R115, U3). -/
def execInvalidSampleRate (q : BitVec 1) (bri : BitVec 4) (rest : BitVec 10) (s : State) :
    Outcome State Fault Refusal :=
  headerElement (.invalid .sampleRate) (sampleRateWord q bri rest) s

end Sys2Proof.Machine
end

