-- ==== Sys2Proof/Machine/Pseudo.lean ====
section
/-! DEFINITION. The pseudo-elements of the stream notation (`30_encoding.md` R87): the frames they expand to. -/

namespace Sys2Proof.Machine

open Host

/-- `FRAME128` is `FRAME br=9 sr=0 pad=0`. -/
def execFrame128 (s : State) : Outcome State Fault Refusal :=
  frameElement 9#4 0#2 128 44100 1#1 0#1 0#9 s

/-- `FRAME128P` is `FRAME br=9 sr=0 pad=1`. -/
def execFrame128p (s : State) : Outcome State Fault Refusal :=
  frameElement 9#4 0#2 128 44100 1#1 1#1 0#9 s

end Sys2Proof.Machine
end

