-- ==== Sys2Proof/Machine/Dispatch.lean ====
section
/-! DEFINITION. The meaning of every instruction of the opcode table: one arm for each constructor of Instr. -/

namespace Sys2Proof.Machine

open Host

def exec (i : Instr) (s : State) : Host.Outcome State Fault Refusal :=
  match i with
  | .tag ver rev flags s6 s7 s8 s9 => Sys2Proof.Machine.execTag ver rev flags s6 s7 s8 s9 s
  | .metaVbr q bri sri p w => Sys2Proof.Machine.execMetaVbr q bri sri p w s
  | .metaCbr q bri sri p w => Sys2Proof.Machine.execMetaCbr q bri sri p w s
  | .frameB1S0 q p w => Sys2Proof.Machine.execFrameB1S0 q p w s
  | .frameB1S1 q p w => Sys2Proof.Machine.execFrameB1S1 q p w s
  | .frameB1S2 q p w => Sys2Proof.Machine.execFrameB1S2 q p w s
  | .frameB2S0 q p w => Sys2Proof.Machine.execFrameB2S0 q p w s
  | .frameB2S1 q p w => Sys2Proof.Machine.execFrameB2S1 q p w s
  | .frameB2S2 q p w => Sys2Proof.Machine.execFrameB2S2 q p w s
  | .frameB3S0 q p w => Sys2Proof.Machine.execFrameB3S0 q p w s
  | .frameB3S1 q p w => Sys2Proof.Machine.execFrameB3S1 q p w s
  | .frameB3S2 q p w => Sys2Proof.Machine.execFrameB3S2 q p w s
  | .frameB4S0 q p w => Sys2Proof.Machine.execFrameB4S0 q p w s
  | .frameB4S1 q p w => Sys2Proof.Machine.execFrameB4S1 q p w s
  | .frameB4S2 q p w => Sys2Proof.Machine.execFrameB4S2 q p w s
  | .frameB5S0 q p w => Sys2Proof.Machine.execFrameB5S0 q p w s
  | .frameB5S1 q p w => Sys2Proof.Machine.execFrameB5S1 q p w s
  | .frameB5S2 q p w => Sys2Proof.Machine.execFrameB5S2 q p w s
  | .frameB6S0 q p w => Sys2Proof.Machine.execFrameB6S0 q p w s
  | .frameB6S1 q p w => Sys2Proof.Machine.execFrameB6S1 q p w s
  | .frameB6S2 q p w => Sys2Proof.Machine.execFrameB6S2 q p w s
  | .frameB7S0 q p w => Sys2Proof.Machine.execFrameB7S0 q p w s
  | .frameB7S1 q p w => Sys2Proof.Machine.execFrameB7S1 q p w s
  | .frameB7S2 q p w => Sys2Proof.Machine.execFrameB7S2 q p w s
  | .frameB8S0 q p w => Sys2Proof.Machine.execFrameB8S0 q p w s
  | .frameB8S1 q p w => Sys2Proof.Machine.execFrameB8S1 q p w s
  | .frameB8S2 q p w => Sys2Proof.Machine.execFrameB8S2 q p w s
  | .frameB9S0 q p w => Sys2Proof.Machine.execFrameB9S0 q p w s
  | .frameB9S1 q p w => Sys2Proof.Machine.execFrameB9S1 q p w s
  | .frameB9S2 q p w => Sys2Proof.Machine.execFrameB9S2 q p w s
  | .frameB10S0 q p w => Sys2Proof.Machine.execFrameB10S0 q p w s
  | .frameB10S1 q p w => Sys2Proof.Machine.execFrameB10S1 q p w s
  | .frameB10S2 q p w => Sys2Proof.Machine.execFrameB10S2 q p w s
  | .frameB11S0 q p w => Sys2Proof.Machine.execFrameB11S0 q p w s
  | .frameB11S1 q p w => Sys2Proof.Machine.execFrameB11S1 q p w s
  | .frameB11S2 q p w => Sys2Proof.Machine.execFrameB11S2 q p w s
  | .frameB12S0 q p w => Sys2Proof.Machine.execFrameB12S0 q p w s
  | .frameB12S1 q p w => Sys2Proof.Machine.execFrameB12S1 q p w s
  | .frameB12S2 q p w => Sys2Proof.Machine.execFrameB12S2 q p w s
  | .frameB13S0 q p w => Sys2Proof.Machine.execFrameB13S0 q p w s
  | .frameB13S1 q p w => Sys2Proof.Machine.execFrameB13S1 q p w s
  | .frameB13S2 q p w => Sys2Proof.Machine.execFrameB13S2 q p w s
  | .frameB14S0 q p w => Sys2Proof.Machine.execFrameB14S0 q p w s
  | .frameB14S1 q p w => Sys2Proof.Machine.execFrameB14S1 q p w s
  | .frameB14S2 q p w => Sys2Proof.Machine.execFrameB14S2 q p w s
  | .invalidSync sync rest => Sys2Proof.Machine.execInvalidSync sync rest s
  | .invalidVersion0 rest => Sys2Proof.Machine.execInvalidVersion0 rest s
  | .invalidVersion1 rest => Sys2Proof.Machine.execInvalidVersion1 rest s
  | .invalidVersion2 rest => Sys2Proof.Machine.execInvalidVersion2 rest s
  | .invalidLayer0 rest => Sys2Proof.Machine.execInvalidLayer0 rest s
  | .invalidLayer2 rest => Sys2Proof.Machine.execInvalidLayer2 rest s
  | .invalidLayer3 rest => Sys2Proof.Machine.execInvalidLayer3 rest s
  | .invalidBitrateFree q rest => Sys2Proof.Machine.execInvalidBitrateFree q rest s
  | .invalidBitrateBad q rest => Sys2Proof.Machine.execInvalidBitrateBad q rest s
  | .invalidSampleRate q bri rest => Sys2Proof.Machine.execInvalidSampleRate q bri rest s
  | .start sizeIn => Sys2Proof.Machine.execStart sizeIn s
  | .abort => Sys2Proof.Machine.execAbort s
  | .tagStep => Sys2Proof.Machine.execTagStep s
  | .metaStep => Sys2Proof.Machine.execMetaStep s
  | .walkStep => Sys2Proof.Machine.execWalkStep s
  | .extract v startBit width => Sys2Proof.Machine.execExtract v startBit width s
  | .parse h => Sys2Proof.Machine.execParse h s
  | .flen kbps hz padding => Sys2Proof.Machine.execFlen kbps hz padding s
  | .fits len rem => Sys2Proof.Machine.execFits len rem s
  | .tagskip pos => Sys2Proof.Machine.execTagskip pos s
  | .metaskip pos => Sys2Proof.Machine.execMetaskip pos s
  | .countframes sizeIn => Sys2Proof.Machine.execCountframes sizeIn s
  | .frame128 => Sys2Proof.Machine.execFrame128 s
  | .frame128p => Sys2Proof.Machine.execFrame128p s

end Sys2Proof.Machine
end

