-- ==== Sys2Proof/Machine/Fetch.lean ====
section
/-! DEFINITION. Which instruction the sequencer runs next: the element the bytes at POS spell in the current phase, or
the phase's own step where there is no element or the bytes cannot be had (`30_encoding.md` R70, R80). -/

namespace Sys2Proof.Machine

/-- The decoded element, or the phase's step. -/
def elementOr (d : Except DecodeError Instr) (stepInstr : Instr) : Instr :=
  match d with
  | .ok i => i
  | .error _ => stepInstr

/-- Phase TAG: ten bytes at POS (R141). -/
def nextTag (s : State) : Instr :=
  if s.rem < Config.tagHdrLen then .tagStep
  else
    match memRead s.pos Config.tagHdrLen s with
    | .ok bs _ => elementOr (decode .tag bs) .tagStep
    | .ioFail _ => .tagStep
    | .silent => .tagStep
    | .outside => .tagStep

/-- Whether the word is a valid header whose frame fits (R153). -/
def headerFits (h : Word) (rem : Nat) : Bool :=
  match parse h with
  | .invalid _ => false
  | .valid f => fits (headerLength f) rem

/-- Phase META: the header at POS, and the marker only if the header is valid and its frame fits (R151 to R154). -/
def nextMeta (s : State) : Instr :=
  if s.rem < Config.metaMin then .metaStep
  else
    match memRead32 s.pos s with
    | .ok h s1 =>
      if headerFits h s.rem then
        match memRead32 (s.pos + Config.metaOffset) s1 with
        | .ok m _ => elementOr (decodeMarked h m) .metaStep
        | .ioFail _ => .metaStep
        | .silent => .metaStep
        | .outside => .metaStep
      else elementOr (decodeHeader h) .metaStep
    | .ioFail _ => .metaStep
    | .silent => .metaStep
    | .outside => .metaStep

/-- Phase WALK: the header at POS, where at least 4 bytes remain (R164). -/
def nextWalk (s : State) : Instr :=
  if s.rem < Config.headerLen then .walkStep
  else
    match memRead32 s.pos s with
    | .ok h _ => elementOr (decodeHeader h) .walkStep
    | .ioFail _ => .walkStep
    | .silent => .walkStep
    | .outside => .walkStep

/-- The next instruction; none in the quiescent phases, where no internal step is enabled (R169). -/
def nextInstr (s : State) : Option Instr :=
  match s.phase with
  | .tag => some (nextTag s)
  | .metadata => some (nextMeta s)
  | .walk => some (nextWalk s)
  | .idle => none
  | .done => none
  | .fault => none

/-! ### Placing one instruction of the table (log entry 22) -/

/-- The length of the source an element is placed in: a frame's longest length (R133), so that every element fits. -/
def placedSize : Nat := 1441

/-- A whole source that begins with the bytes of an instruction, filled up with zeros. -/
def placedSource (bs : List Byte) : Memory :=
  Memory.ofBytes (bs ++ List.replicate (placedSize - bs.length) 0#8)

/-- The state in which the next step runs an instruction of the table. A row with bytes of its own: its bytes at offset
0 of a source, in the phase that looks for it. A PHASE row: the phase it names, with no byte left at POS, so that the
step finds no element. -/
def placeInstr (s : State) (nbits w : Nat) : State :=
  match tableFormat nbits with
  | .phase => { s with phase := tablePhase nbits w, size := 0, pos := 0, host := [] }
  | _ =>
    { s with
      phase := tablePhase nbits w
      size := placedSize
      pos := 0
      mem := placedSource (tableBytes nbits w)
      port := []
      host := [] }

end Sys2Proof.Machine
end

