-- ==== Sys2Proof/Machine/Sequencer.lean ====
section
/-! DEFINITION. The two kinds of step of the sequencer (`00_scope.md` R13): one of its own, or one the host asks for at
a step boundary. Between steps the transient registers are unspecified (`10_state.md` R25). -/

namespace Sys2Proof.Machine

open Host

/-- The end of a step of the sequencer's own: the transient registers become free values. -/
def endStep (o : Outcome State Fault Refusal) : Outcome State Fault Refusal :=
  match o with
  | .next s => .next s.scrub
  | .fault r => .fault r
  | .refused r => .refused r

/-- A step of the sequencer's own: the instruction at POS, or nothing in a quiescent phase (R169, R215). -/
def internalStep (s : State) : Outcome State Fault Refusal :=
  match nextInstr s with
  | some i => endStep (exec i s)
  | none => .next s

/-- A step boundary at which the host asserts something (R175, R176, R199, R220): `abort` is applied before `start`.
A command leaves the transient registers alone. -/
def hostStep (c : HostInput) (s : State) : Outcome State Fault Refusal :=
  match c with
  | .quiet => internalStep s
  | .start n => exec (.start n) s
  | .abort => exec .abort s
  | .abortStart n => andThen (exec .abort s) (exec (.start n))
  | .hardwareReset => .next (hardwareReset s)

/-- The next step boundary: the host's input first, then the sequencer. -/
def boundary (s : State) : Outcome State Fault Refusal :=
  match s.host with
  | [] => internalStep s
  | c :: rest => hostStep c { s with host := rest }

end Sys2Proof.Machine
end

