-- ==== Sys2Proof/Machine/Step.lean ====
section
/-! DEFINITION. One step of the block, and the placing of one instruction where the next step finds it. -/

namespace Sys2Proof.Machine

open Host

/-- One step (`00_scope.md` R13, D9). -/
def step (s : State) : Host.Outcome State Fault Refusal :=
  boundary s

/-- The state `s` with an instruction of the table where the next step fetches it (log entry 22). -/
def State.withFetchWord (s : State) (nbits w : Nat) : State :=
  placeInstr s nbits w

end Sys2Proof.Machine
end

