-- ==== Sys2Proof/Machine/Stream.lean ====
section
/-! DEFINITION. The stream notation (`30_encoding.md` R86, D16): lines that expand to bytes. It is notation, no part of
the block; test streams are written in it. -/

namespace Sys2Proof.Machine

/-- Which marker a `META` line carries. -/
inductive MarkerKind where
  | vbr | cbr
deriving DecidableEq, Repr

/-- One line of the notation. -/
inductive StreamLine where
  | bytes (bs : List Byte)
  | fill (n : Nat) (b : Byte)
  | hdr (br : BitVec 4) (sr : BitVec 2) (pad prot : BitVec 1) (low : BitVec 9)
  | frame (br : BitVec 4) (sr : BitVec 2) (pad prot : BitVec 1) (low : BitVec 9) (fillByte : Byte)
  | metaFrame (kind : MarkerKind) (br : BitVec 4) (sr : BitVec 2) (pad prot : BitVec 1) (fillByte : Byte)
  | tag (size : Nat) (ver rev flags fillByte : Byte)
  | tagHdr (size : Nat) (ver rev flags : Byte)
deriving DecidableEq, Repr

/-- `FRAME128` and `FRAME128P` (R87). -/
def StreamLine.frame128 : StreamLine := .frame 9#4 0#2 0#1 1#1 0#9 0#8
def StreamLine.frame128p : StreamLine := .frame 9#4 0#2 1#1 1#1 0#9 0#8

/-- The four synchsafe bytes of a size. -/
def synchsafeBytes (n : Nat) : List Byte :=
  [BitVec.ofNat 8 ((n >>> 21) &&& 0x7F), BitVec.ofNat 8 ((n >>> 14) &&& 0x7F),
   BitVec.ofNat 8 ((n >>> 7) &&& 0x7F), BitVec.ofNat 8 (n &&& 0x7F)]

/-- The ten bytes of a tag header. -/
def tagHeaderBytes (n : Nat) (ver rev flags : Byte) : List Byte :=
  [Config.tagId0, Config.tagId1, Config.tagId2, ver, rev, flags] ++ synchsafeBytes n

/-- The length of the frame of two indexes, where both have a table entry. -/
def lineLength (br : BitVec 4) (sr : BitVec 2) (pad : BitVec 1) : Option Nat :=
  match bitrateKbps br, sampleRateHz sr with
  | some kbps, some hz => some (frameLength kbps hz pad.toNat)
  | _, _ => none

/-- The pattern of a marker. -/
def MarkerKind.word : MarkerKind → Word
  | .vbr => Config.markerVbr
  | .cbr => Config.markerCbr

/-- The bytes of a line; none where its operands are outside the ranges of R86. -/
def StreamLine.expand : StreamLine → Option (List Byte)
  | .bytes bs => some bs
  | .fill n b => some (List.replicate n b)
  | .hdr br sr pad prot low => some (wordBytes (frameWord ⟨prot, br, sr, pad, low⟩))
  | .frame br sr pad prot low fillByte =>
    (lineLength br sr pad).map fun len =>
      wordBytes (frameWord ⟨prot, br, sr, pad, low⟩) ++ List.replicate (len - 4) fillByte
  | .metaFrame kind br sr pad prot fillByte =>
    (lineLength br sr pad).map fun len =>
      wordBytes (frameWord ⟨prot, br, sr, pad, 0#9⟩) ++ List.replicate 32 fillByte ++ wordBytes kind.word ++
        List.replicate (len - 40) fillByte
  | .tag size ver rev flags fillByte =>
    if size < 2 ^ 28 then some (tagHeaderBytes size ver rev flags ++ List.replicate size fillByte) else none
  | .tagHdr size ver rev flags => if size < 2 ^ 28 then some (tagHeaderBytes size ver rev flags) else none

/-- The bytes of a stream: its lines' bytes in order (R86). -/
def expandStream : List StreamLine → Option (List Byte)
  | [] => some []
  | l :: ls =>
    match l.expand, expandStream ls with
    | some bs, some rest => some (bs ++ rest)
    | _, _ => none

end Sys2Proof.Machine
end

