-- ==== Sys2Proof/Safety.lean ====
section
/-! DEFINITION. The terms claims are stated in: the host's launch premises (`70_reset_and_hazards.md` R225 to R236), the
invariant of the registers (`10_state.md` R22, R24, R28) and what counts as a safe step. -/

namespace Sys2Proof.Machine

open Host

/-! ### Premises -/

/-- The source below `size` is `src`: whole, readable and immutable (R54, R225, R230). -/
def SourceIs (s : State) (src : Nat → Byte) (size : Nat) : Prop :=
  ∀ k, k < size → s.mem.read k = some (src k)

/-- The port serves every read (the total byte source of R54). -/
def PortServes (s : State) : Prop := ∀ a ∈ s.port, a = .serve

/-- The port answers every read in finite time, with data or with `rd_err` (R236). -/
def PortAnswers (s : State) : Prop := ∀ a ∈ s.port, a ≠ .silent

/-- Whether an answer holds back none of `len` bytes (R55). -/
def answersInFull (a : PortAnswer) (len : Nat) : Bool :=
  match a with
  | .serve => true
  | .short n => decide (len ≤ n)
  | .error => false
  | .silent => false

/-- The next read, of `len` bytes at `off`, is served, and its bytes are `bytes 0`, `bytes 1`, … (R52). -/
def ReadServed (s : State) (off len : Nat) (bytes : Nat → Byte) : Prop :=
  answersInFull (s.port.head?.getD .serve) len = true ∧ ∀ k, k < len → s.mem.read (off + k) = some (bytes k)

/-- The next read, of `len` bytes at `off`, fails (R66): `rd_err = 1`, or fewer than `len` bytes come back. -/
def ReadFails (s : State) (off len : Nat) : Prop :=
  s.port.head? = some .error ∨ (∃ n, n < len ∧ s.port.head? = some (.short n)) ∨
    (s.port.head? ≠ some .silent ∧ ∃ k, k < len ∧ s.mem.read (off + k) = none)

/-- The port never answers the next read (R236). -/
def ReadSilent (s : State) : Prop := s.port.head? = some .silent

/-- The word at `off` of a byte function, big-endian (R56). -/
def wordOf (bytes : Nat → Byte) : Word := be32 (bytes 0) (bytes 1) (bytes 2) (bytes 3)

/-- The registers a header word leaves inside a step, spelt out (R25, R110, R130). -/
def afterValidHeader (s : State) (h : Word) (f : FrameHeader) : State :=
  { s with
    hdr := h
    fhValid := true
    fhBr := BitVec.ofNat 9 f.kbps
    fhSr := BitVec.ofNat 16 f.hz
    fhPad := f.padding
    flen := BitVec.ofNat 11 (144000 * f.kbps / f.hz + f.padding.toNat) }

/-- The quiescent phases (R169, R215). -/
def State.quiescent (s : State) : Bool := !s.busy

/-- The internal step that a phase enables (R26, R162, R163, R165). -/
def phaseStep : Phase → Option Instr
  | .tag => some .tagStep
  | .metadata => some .metaStep
  | .walk => some .walkStep
  | .idle => none
  | .done => none
  | .fault => none

/-- The host asserts nothing at the next step boundary, so the sequencer takes a step of its own (R13, log entry 10). -/
def NoCommand (s : State) : Prop := s.host = [] ∨ ∃ rest, s.host = .quiet :: rest

/-! ### The invariant -/

/-- STOP says why a pass ended exactly in the phases in which one has ended (R27, R190). -/
def stopFitsPhase : Phase → Stop → Bool
  | .done, .endOfSource => true
  | .done, .invalidHeader => true
  | .done, .truncatedFrame => true
  | .fault, .ioError => true
  | .idle, .none => true
  | .tag, .none => true
  | .metadata, .none => true
  | .walk, .none => true
  | _, _ => false

/-- A request the block may put on the port: inside the source, 10 or 4 bytes (R53, R58, R60). -/
def ReadReq.allowed (r : ReadReq) (size : Nat) : Prop :=
  r.off + r.len.toNat ≤ size ∧ (r.len = 10#4 ∨ r.len = 4#4)

/-- What holds of the registers between steps. While IDLE the data registers are no result and may hold anything
(R220, U13). -/
structure Inv (s : State) : Prop where
  /-- The source is in canonical form. -/
  memory : s.mem.wf = true
  /-- R24. -/
  posInSource : s.phase ≠ .idle → s.pos ≤ s.size
  /-- R22 and R171: with the default tables every counted frame is at least 96 bytes long (R133). -/
  countedBytes : s.phase ≠ .idle → 96 * s.cnt ≤ s.pos
  /-- R160, R162: the tag skip begins at offset 0. -/
  startOfPass : s.phase = .tag → s.pos = 0 ∧ s.cnt = 0
  /-- R162: nothing is counted before the Walker. -/
  beforeWalk : s.phase = .metadata → s.cnt = 0
  /-- R27. -/
  stopReason : stopFitsPhase s.phase s.stop = true
  /-- R28. -/
  causeOnlyIfInvalid : s.invCause ≠ .none ↔ s.stop = .invalidHeader
  /-- R53, R60. -/
  readsInside : s.phase ≠ .idle → ∀ r ∈ s.reads, r.allowed s.size

/-- A step that goes on and does not end in the fault phase. -/
def StepSafe (s : State) : Prop := ∃ t, step s = .next t ∧ t.phase ≠ .fault

/-! ### Comparing runs -/

/-- The registers a pass shows: everything the host can read (R30), and SIZE. -/
def sameResult (s t : State) : Prop :=
  s.phase = t.phase ∧ s.size = t.size ∧ s.pos = t.pos ∧ s.cnt = t.cnt ∧ s.stop = t.stop ∧ s.invCause = t.invCause

/-- The state with another source behind the port. -/
def State.withSource (s : State) (m : Memory) : State := { s with mem := m }

/-- An outcome with another source behind the port. -/
def outcomeWithSource (m : Memory) : Outcome State Fault Refusal → Outcome State Fault Refusal
  | .next s => .next (s.withSource m)
  | .fault r => .fault r
  | .refused r => .refused r

/-- An outcome with another list of commands to come. -/
def outcomeWithHost (rest : List HostInput) : Outcome State Fault Refusal → Outcome State Fault Refusal
  | .next s => .next { s with host := rest }
  | .fault r => .fault r
  | .refused r => .refused r

end Sys2Proof.Machine
end

