-- ==== Sys2Proof/Certificates/Slice0/Obligations.lean ====
section
/-! DEFINITION. What is claimed of the model, for the provers. Each docstring names the rule of `spec/` it comes from. -/

open Sys2Proof Sys2Proof.Machine Host

/-! ### Encodings -/

/-- Words written out from R71, R74, R75, R82 and R85 decode to the rows they stand for (a sanity statement). -/
def Obligations.SpecWordsDecodeAsWritten : Prop :=
  decode .walk [0xFF#8, 0xFB#8, 0x90#8, 0x00#8] = .ok (.frameB9S0 1#1 0#1 0#9) ∧
    decode .walk [0xFF#8, 0xFA#8, 0xEA#8, 0x01#8] = .ok (.frameB14S2 0#1 1#1 1#9) ∧
    decode .walk [0x49#8, 0x44#8, 0x33#8, 0x03#8] = .ok (.invalidSync 0x24A#11 0x043303#21) ∧
    decode .walk [0xFF#8, 0xFB#8, 0x9C#8, 0x00#8] = .ok (.invalidSampleRate 1#1 9#4 0#10) ∧
    decode .tag [0x49#8, 0x44#8, 0x33#8, 4#8, 0#8, 0x80#8, 0x80#8, 0x80#8, 0x80#8, 0x8A#8] =
      .ok (.tag 4#8 0#8 0x80#8 0x80#8 0x80#8 0x80#8 0x8A#8) ∧
    decode .metadata ([0xFF#8, 0xFB#8, 0x90#8, 0x00#8] ++ List.replicate 32 0#8 ++ [0x58#8, 0x69#8, 0x6E#8, 0x67#8]) =
      .ok (.metaVbr 1#1 9#4 0#2 0#1 0#9) ∧
    decodePhase 3#3 = .ok .walkStep

/-- R70, R71, R74, R75, R85: decoding the bytes of a well-formed element, in the phase that looks for it and whatever
follows it, gives the element back with every operand; the PHASE value of an internal step selects it; a pseudo-element
decodes to the frame it is notation for (R87). -/
def Obligations.DecodingAnEncodedElementGivesItBack : Prop :=
  (∀ (i : Instr) (ph : Phase) (tail : List Byte), i.wf = true → i ≠ .frame128 → i ≠ .frame128p →
      i.decodePhase? = some ph → decode ph (encode i ++ tail) = .ok i) ∧
    (∀ (i : Instr) (c : BitVec 3), encodePhase i = some c → decodePhase c = .ok i) ∧
    (∀ tail : List Byte, decode .walk (encode .frame128 ++ tail) = .ok (.frameB9S0 1#1 0#1 0#9) ∧
      decode .walk (encode .frame128p ++ tail) = .ok (.frameB9S0 1#1 1#1 0#9))

/-- R82, R119: every 32-bit word is either a frame's or an invalid word, and its row keeps every bit of it. -/
def Obligations.EveryWordDecodesWithoutLoss : Prop :=
  ∀ h : Word, ∃ i : Instr, decodeHeader h = .ok i ∧ i.wf = true ∧ i.headerWord = some h ∧
    (i.frameBits?.isSome ≠ i.invalidCause?.isSome)

/-- R85: the 52 `FHDR` rows are disjoint and cover all words, and the decoder answers the one row that selects a word. -/
def Obligations.HeaderRowsAreDisjointAndCover : Prop :=
  headerRows.length = 52 ∧
    ∀ h : Word, ∃ (i : Instr) (r : HeaderRow), decodeHeader h = .ok i ∧ i.headerRow? = some r ∧ r ∈ headerRows ∧
      r.selects h = true ∧ ∀ r' ∈ headerRows, r'.selects h = true → r' = r

/-- R82, R110: the decoder's rows and the parser agree on every word: a frame row's word is valid with the row's table
values, an invalid row's word is invalid with the row's cause. -/
def Obligations.DecoderAgreesWithParser : Prop :=
  ∀ (h : Word) (i : Instr), decodeHeader h = .ok i →
    (∀ f, i.frameBits? = some f → ∃ kbps hz, bitrateKbps f.bri = some kbps ∧ sampleRateHz f.sri = some hz ∧
        parse h = .valid ⟨kbps, hz, f.p⟩) ∧
      ∀ c, i.invalidCause? = some c → parse h = .invalid c

/-! ### The combinational functions -/

/-- R100, R103: inside its precondition EXTRACT returns the unsigned integer of the `width` contiguous bits from bit
`start` downward, and changes nothing else. -/
def Obligations.ExtractReturnsTheField : Prop :=
  (∀ (v : Word) (b w : Nat) (s : State), b ≤ 31 → w ≤ 31 → w ≤ b + 1 →
      ∃ n, exec (.extract v b w) s = .next { s with fout := .bits n } ∧ n < 2 ^ w ∧
        n = (v.toNat >>> (b + 1 - w)) &&& ((1 <<< w) - 1) ∧
        ∀ k, k < w → n.testBit k = v.getLsbD (b + 1 - w + k)) ∧
    ∀ s : State, exec (.extract 0xFFFB9200#32 15 4) s = .next { s with fout := .bits 9 }

/-- R102: outside the precondition of R101 the call has no value. -/
def Obligations.ExtractOutsideItsRangeIsRefused : Prop :=
  ∀ (v : Word) (b w : Nat) (s : State), (31 < b ∨ 31 < w ∨ b + 1 < w) →
    exec (.extract v b w) s = .refused .extractOutsidePrecondition

/-- R110 to R117: the five checks in order, with the number of the first that fails; then the tables' values. -/
def Obligations.ParseReportsTheFirstFailingCheck : Prop :=
  (∀ (h : Word) (s : State),
      (h.extractLsb' 21 11 ≠ 0x7FF#11 →
        exec (.parse h) s = .next { s with fhValid := false, fout := .header (.invalid .sync) }) ∧
      (h.extractLsb' 21 11 = 0x7FF#11 → h.extractLsb' 19 2 ≠ 0b11#2 →
        exec (.parse h) s = .next { s with fhValid := false, fout := .header (.invalid .version) }) ∧
      (h.extractLsb' 21 11 = 0x7FF#11 → h.extractLsb' 19 2 = 0b11#2 → h.extractLsb' 17 2 ≠ 0b01#2 →
        exec (.parse h) s = .next { s with fhValid := false, fout := .header (.invalid .layer) }) ∧
      (h.extractLsb' 21 11 = 0x7FF#11 → h.extractLsb' 19 2 = 0b11#2 → h.extractLsb' 17 2 = 0b01#2 →
        (h.extractLsb' 12 4 = 0#4 ∨ h.extractLsb' 12 4 = 15#4) →
        exec (.parse h) s = .next { s with fhValid := false, fout := .header (.invalid .bitrate) }) ∧
      (h.extractLsb' 21 11 = 0x7FF#11 → h.extractLsb' 19 2 = 0b11#2 → h.extractLsb' 17 2 = 0b01#2 →
        h.extractLsb' 12 4 ≠ 0#4 → h.extractLsb' 12 4 ≠ 15#4 → h.extractLsb' 10 2 = 3#2 →
        exec (.parse h) s = .next { s with fhValid := false, fout := .header (.invalid .sampleRate) }) ∧
      (h.extractLsb' 21 11 = 0x7FF#11 → h.extractLsb' 19 2 = 0b11#2 → h.extractLsb' 17 2 = 0b01#2 →
        h.extractLsb' 12 4 ≠ 0#4 → h.extractLsb' 12 4 ≠ 15#4 → h.extractLsb' 10 2 ≠ 3#2 →
        ∃ kbps hz, bitrateKbps (h.extractLsb' 12 4) = some kbps ∧ sampleRateHz (h.extractLsb' 10 2) = some hz ∧
          exec (.parse h) s =
            .next { s with
                    fhValid := true
                    fhBr := BitVec.ofNat 9 kbps
                    fhSr := BitVec.ofNat 16 hz
                    fhPad := h.extractLsb' 9 1
                    fout := .header (.valid ⟨kbps, hz, h.extractLsb' 9 1⟩) })) ∧
    parse 0xFFFB9000#32 = .valid ⟨128, 44100, 0#1⟩

/-- R118, R73: the verdict and the fields do not depend on bit 16 and bits 8:0; a failing field makes the word invalid
whatever the others hold. -/
def Obligations.ParseDoesNotSeeTheIgnoredBits : Prop :=
  (∀ (h : Word) (s : State), exec (.parse h) s = exec (.parse (h &&& 0xFFFEFE00#32)) s) ∧
    (∀ h : Word, parse h = parse (h &&& 0xFFFEFE00#32)) ∧
    ∀ h : Word, (h.extractLsb' 12 4 = 0#4 ∨ h.extractLsb' 12 4 = 15#4 ∨ h.extractLsb' 10 2 = 3#2 ∨
        h.extractLsb' 21 11 ≠ 0x7FF#11 ∨ h.extractLsb' 19 2 ≠ 0b11#2 ∨ h.extractLsb' 17 2 ≠ 0b01#2) →
      ∃ c, c ≠ Cause.none ∧ parse h = .invalid c

/-- R81 (property Q5): the valid words by mask, match and exclusions. -/
def Obligations.ValidWordsAreTheMaskedOnes : Prop :=
  ∀ h : Word, (∃ f, parse h = .valid f) ↔
    (h &&& 0xFFFE0000#32 = 0xFFFA0000#32 ∧ h &&& 0x0000F000#32 ≠ 0#32 ∧ h &&& 0x0000F000#32 ≠ 0x0000F000#32 ∧
      h &&& 0x00000C00#32 ≠ 0x00000C00#32)

/-- R120: every synthetically built header parses to the tables' values, whatever its ignored bits. -/
def Obligations.SyntheticHeaderParsesToItsTableValues : Prop :=
  ∀ (i j : Nat) (q p : BitVec 1) (w : BitVec 9), 1 ≤ i → i ≤ 14 → j ≤ 2 →
    ∃ kbps hz, [0, 32, 40, 48, 56, 64, 80, 96, 112, 128, 160, 192, 224, 256, 320][i]? = some kbps ∧
      [44100, 48000, 32000][j]? = some hz ∧
      parse (0xFFE00000#32 + BitVec.ofNat 32 (3 * 2 ^ 19 + 1 * 2 ^ 17 + q.toNat * 2 ^ 16 + i * 2 ^ 12 + j * 2 ^ 10 +
        p.toNat * 2 ^ 9 + w.toNat)) = .valid ⟨kbps, hz, p⟩

/-- R130: the length is the floor of the exact quotient plus the padding, and the call writes the FLEN register only;
417 and 418 are the source's own example. A sample rate of 0, which R130 keeps out, gives a free value (log
entry 17). -/
def Obligations.FrameLengthIsTheFlooredQuotient : Prop :=
  (∀ (kbps : BitVec 9) (hz : BitVec 16) (pad : BitVec 1) (s : State), hz ≠ 0#16 →
      ∃ reg, exec (.flen kbps hz pad) s =
          .next { s with
                  flen := reg
                  fout := .length (144000 * kbps.toNat / hz.toNat + pad.toNat)
                  draw := s.draw + 1 } ∧
        (144000 * kbps.toNat / hz.toNat + pad.toNat < 2048 →
          reg.toNat = 144000 * kbps.toNat / hz.toNat + pad.toNat)) ∧
    (∀ (kbps : BitVec 9) (pad : BitVec 1) (s : State),
      ∃ reg n, exec (.flen kbps 0#16 pad) s = .next { s with flen := reg, fout := .length n, draw := s.draw + 1 }) ∧
    frameLength 128 44100 0 = 417 ∧ frameLength 128 44100 1 = 418

/-- R133: for every valid header the length is positive, and with the default tables 96 to 1441. -/
def Obligations.ValidFrameLengthIsBounded : Prop :=
  (∀ kbps hz pad : Nat, 1 ≤ kbps → 1 ≤ hz → hz ≤ 48000 → 3 ≤ frameLength kbps hz pad) ∧
    ∀ (h : Word) (f : FrameHeader), parse h = .valid f → 96 ≤ headerLength f ∧ headerLength f ≤ 1441

/-- R135: the equivalent forms without a general divider. -/
def Obligations.FrameLengthWithoutDivider : Prop :=
  ∀ k : Nat, frameLength k 48000 0 = 3 * k ∧ frameLength k 32000 0 = 9 * k / 2 ∧ frameLength k 44100 0 = 160 * k / 49

/-- R136: the table of the 42 unpadded lengths, by bitrate index and sample-rate index; one more with padding. -/
def Obligations.FrameLengthTable : Prop :=
  ([1#4, 2#4, 3#4, 4#4, 5#4, 6#4, 7#4, 8#4, 9#4, 10#4, 11#4, 12#4, 13#4, 14#4].map bitrateKbps =
      [32, 40, 48, 56, 64, 80, 96, 112, 128, 160, 192, 224, 256, 320].map some) ∧
  ([0#2, 1#2, 2#2].map sampleRateHz = [44100, 48000, 32000].map some) ∧
  ([32, 40, 48, 56, 64, 80, 96, 112, 128, 160, 192, 224, 256, 320].map fun k =>
      (frameLength k 44100 0, frameLength k 48000 0, frameLength k 32000 0)) =
    [(104, 96, 144), (130, 120, 180), (156, 144, 216), (182, 168, 252), (208, 192, 288), (261, 240, 360),
     (313, 288, 432), (365, 336, 504), (417, 384, 576), (522, 480, 720), (626, 576, 864), (731, 672, 1008),
     (835, 768, 1152), (1044, 960, 1440)] ∧
    ∀ k z : Nat, frameLength k z 1 = frameLength k z 0 + 1

/-- R134: the fit test. -/
def Obligations.FitsAcceptsUpToTheLastByte : Prop :=
  ∀ (len rem : Nat) (s : State),
    exec (.fits len rem) s = .next { s with fout := .verdict (decide (0 < len ∧ len ≤ rem)) }

/-- R143: seven bits of each size byte, the first the most significant, at most 2^28 - 1. -/
def Obligations.TagSizeIsSynchsafe : Prop :=
  ∀ b6 b7 b8 b9 : Byte,
    synchsafe b6 b7 b8 b9 =
        (((b6 &&& 0x7F#8).toNat <<< 21) ||| ((b7 &&& 0x7F#8).toNat <<< 14) ||| ((b8 &&& 0x7F#8).toNat <<< 7) |||
          (b9 &&& 0x7F#8).toNat) ∧
      synchsafe b6 b7 b8 b9 ≤ 268435455

/-- R56: a header word is read big-endian. -/
def Obligations.HeaderReadIsBigEndian : Prop :=
  ∀ (off : Nat) (bytes : Nat → Byte) (s : State), off + 4 ≤ s.size → ReadServed s off 4 bytes →
    ∃ h : Word, memRead32 off s = .ok h { s with reads := ⟨off, 4⟩ :: s.reads, port := s.port.tail } ∧
      h.toNat = (bytes 0).toNat * 2 ^ 24 + (bytes 1).toNat * 2 ^ 16 + (bytes 2).toNat * 2 ^ 8 + (bytes 3).toNat

/-! ### The tag skip -/

/-- R140 to R145: the function TAGSKIP. With fewer than 10 bytes nothing is read; otherwise 10 bytes are read, and the
position moves by 10 and the synchsafe size, cut off at SIZE, when the identifier is there; a failed read takes the
fault entry. -/
def Obligations.TagskipGivesThePositionAfterATag : Prop :=
  ∀ (pos : Nat) (s : State),
    (s.size - pos < 10 → exec (.tagskip pos) s = .next { s with fout := .position pos }) ∧
      (∀ t : Nat → Byte, 10 ≤ s.size - pos → ReadServed s pos 10 t →
        exec (.tagskip pos) s =
          .next { s with
                  reads := ⟨pos, 10⟩ :: s.reads
                  port := s.port.tail
                  fout := .position
                    (if t 0 = 0x49#8 ∧ t 1 = 0x44#8 ∧ t 2 = 0x33#8 then
                      min (pos + 10 + synchsafe (t 6) (t 7) (t 8) (t 9)) s.size
                     else pos) }) ∧
      (10 ≤ s.size - pos → ReadFails s pos 10 →
        exec (.tagskip pos) s =
          .next { s with reads := ⟨pos, 10⟩ :: s.reads, port := s.port.tail, stop := .ioError, phase := .fault })

/-- R162: the TAG step applies TAGSKIP to POS and moves to META; CNT is unchanged. -/
def Obligations.TagStepSkipsALeadingTag : Prop :=
  ∀ s : State, s.phase = .tag →
    (s.size - s.pos < 10 → exec .tagStep s = .next { s with phase := .metadata }) ∧
      (∀ t : Nat → Byte, 10 ≤ s.size - s.pos → ReadServed s s.pos 10 t →
        exec .tagStep s =
          .next { s with
                  reads := ⟨s.pos, 10⟩ :: s.reads
                  port := s.port.tail
                  pos :=
                    (if t 0 = 0x49#8 ∧ t 1 = 0x44#8 ∧ t 2 = 0x33#8 then
                      min (s.pos + 10 + synchsafe (t 6) (t 7) (t 8) (t 9)) s.size
                     else s.pos)
                  phase := .metadata }) ∧
      (10 ≤ s.size - s.pos → ReadFails s s.pos 10 →
        exec .tagStep s =
          .next { s with reads := ⟨s.pos, 10⟩ :: s.reads, port := s.port.tail, stop := .ioError, phase := .fault })

/-- R70, R144, R145: the element TAG in phase TAG is stepped over and not counted, whatever its ignored bytes; in no other
phase is it an element. -/
def Obligations.TagElementIsSkippedNotCounted : Prop :=
  ∀ (ver rev flags s6 s7 s8 s9 : Byte) (s : State),
    (s.phase = .tag → 10 ≤ s.size - s.pos →
      exec (.tag ver rev flags s6 s7 s8 s9) s =
        .next { s with
                reads := ⟨s.pos, 10⟩ :: s.reads
                port := s.port.tail
                pos := min (s.pos + 10 + synchsafe s6 s7 s8 s9) s.size
                phase := .metadata }) ∧
      (s.phase = .tag → s.size - s.pos < 10 →
        exec (.tag ver rev flags s6 s7 s8 s9) s = .next { s with phase := .metadata }) ∧
      (s.phase ≠ .tag → exec (.tag ver rev flags s6 s7 s8 s9) s = .next s)

/-! ### The metadata-frame skip -/

/-- R150 to R155: the function METASKIP, its reads (R154) and the fault entry of a failed one. -/
def Obligations.MetaskipGivesThePositionAfterAStatisticsFrame : Prop :=
  ∀ (pos : Nat) (s : State),
    (s.size - pos < 44 → exec (.metaskip pos) s = .next { s with fout := .position pos }) ∧
      (44 ≤ s.size - pos → ReadFails s pos 4 →
        exec (.metaskip pos) s =
          .next { s with reads := ⟨pos, 4⟩ :: s.reads, port := s.port.tail, stop := .ioError, phase := .fault }) ∧
      ∀ b : Nat → Byte, 44 ≤ s.size - pos → ReadServed s pos 4 b →
        (∀ c, parse (wordOf b) = .invalid c →
          exec (.metaskip pos) s =
            .next { s with
                    hdr := wordOf b
                    fhValid := false
                    reads := ⟨pos, 4⟩ :: s.reads
                    port := s.port.tail
                    fout := .position pos }) ∧
          (∀ f, parse (wordOf b) = .valid f → s.size - pos < headerLength f →
            exec (.metaskip pos) s =
              .next { afterValidHeader s (wordOf b) f with
                      reads := ⟨pos, 4⟩ :: s.reads
                      port := s.port.tail
                      fout := .position pos }) ∧
          (∀ f, parse (wordOf b) = .valid f → headerLength f ≤ s.size - pos →
            ReadFails { s with port := s.port.tail } (pos + 36) 4 →
            exec (.metaskip pos) s =
              .next { afterValidHeader s (wordOf b) f with
                      reads := ⟨pos + 36, 4⟩ :: ⟨pos, 4⟩ :: s.reads
                      port := s.port.tail.tail
                      stop := .ioError
                      phase := .fault }) ∧
          ∀ (f : FrameHeader) (m : Nat → Byte), parse (wordOf b) = .valid f → headerLength f ≤ s.size - pos →
            ReadServed { s with port := s.port.tail } (pos + 36) 4 m →
            exec (.metaskip pos) s =
              .next { afterValidHeader s (wordOf b) f with
                      reads := ⟨pos + 36, 4⟩ :: ⟨pos, 4⟩ :: s.reads
                      port := s.port.tail.tail
                      fout := .position
                        (if wordOf m = 0x58696E67#32 ∨ wordOf m = 0x496E666F#32 then pos + headerLength f else pos) }

/-- R163: the META step applies METASKIP to POS and moves to WALK; CNT, STOP and INV_CAUSE are unchanged, even when the
header at POS is invalid (R202). -/
def Obligations.MetaStepSkipsAtMostOneStatisticsFrame : Prop :=
  ∀ s : State, s.phase = .metadata →
    (s.size - s.pos < 44 → exec .metaStep s = .next { s with phase := .walk }) ∧
      (44 ≤ s.size - s.pos → ReadFails s s.pos 4 →
        exec .metaStep s =
          .next { s with reads := ⟨s.pos, 4⟩ :: s.reads, port := s.port.tail, stop := .ioError, phase := .fault }) ∧
      ∀ b : Nat → Byte, 44 ≤ s.size - s.pos → ReadServed s s.pos 4 b →
        (∀ c, parse (wordOf b) = .invalid c →
          exec .metaStep s =
            .next { s with
                    hdr := wordOf b
                    fhValid := false
                    reads := ⟨s.pos, 4⟩ :: s.reads
                    port := s.port.tail
                    phase := .walk }) ∧
          (∀ f, parse (wordOf b) = .valid f → s.size - s.pos < headerLength f →
            exec .metaStep s =
              .next { afterValidHeader s (wordOf b) f with
                      reads := ⟨s.pos, 4⟩ :: s.reads
                      port := s.port.tail
                      phase := .walk }) ∧
          (∀ f, parse (wordOf b) = .valid f → headerLength f ≤ s.size - s.pos →
            ReadFails { s with port := s.port.tail } (s.pos + 36) 4 →
            exec .metaStep s =
              .next { afterValidHeader s (wordOf b) f with
                      reads := ⟨s.pos + 36, 4⟩ :: ⟨s.pos, 4⟩ :: s.reads
                      port := s.port.tail.tail
                      stop := .ioError
                      phase := .fault }) ∧
          ∀ (f : FrameHeader) (m : Nat → Byte), parse (wordOf b) = .valid f → headerLength f ≤ s.size - s.pos →
            ReadServed { s with port := s.port.tail } (s.pos + 36) 4 m →
            exec .metaStep s =
              .next { afterValidHeader s (wordOf b) f with
                      reads := ⟨s.pos + 36, 4⟩ :: ⟨s.pos, 4⟩ :: s.reads
                      port := s.port.tail.tail
                      pos :=
                        (if wordOf m = 0x58696E67#32 ∨ wordOf m = 0x496E666F#32 then s.pos + headerLength f else s.pos)
                      phase := .walk }

/-- R155, R156: the elements META_VBR and META_CBR have the same effect: in META a frame that fits is stepped over and
not counted; in WALK it is an ordinary audio frame and is counted; one that does not fit is left to the Walker, which
stops on it. -/
def Obligations.StatisticsFramesAreSkippedOnce : Prop :=
  ∀ (i : Instr) (q : BitVec 1) (bri : BitVec 4) (sri : BitVec 2) (p : BitVec 1) (w : BitVec 9) (s : State),
    (i = .metaVbr q bri sri p w ∨ i = .metaCbr q bri sri p w) → i.wf = true →
    ∃ kbps hz len, bitrateKbps bri = some kbps ∧ sampleRateHz sri = some hz ∧ len = 144000 * kbps / hz + p.toNat ∧
      (s.phase = .metadata → 44 ≤ s.size - s.pos → len ≤ s.size - s.pos →
        exec i s =
          .next { afterValidHeader s (frameWord ⟨q, bri, sri, p, w⟩) ⟨kbps, hz, p⟩ with
                  reads := ⟨s.pos + 36, 4⟩ :: ⟨s.pos, 4⟩ :: s.reads
                  port := s.port.tail.tail
                  pos := s.pos + len
                  phase := .walk }) ∧
      (s.phase = .metadata → 44 ≤ s.size - s.pos → s.size - s.pos < len →
        exec i s =
          .next { afterValidHeader s (frameWord ⟨q, bri, sri, p, w⟩) ⟨kbps, hz, p⟩ with
                  reads := ⟨s.pos, 4⟩ :: s.reads
                  port := s.port.tail
                  phase := .walk }) ∧
      (s.phase = .metadata → s.size - s.pos < 44 → exec i s = .next { s with phase := .walk }) ∧
      (s.phase = .walk → len ≤ s.size - s.pos →
        exec i s =
          .next { afterValidHeader s (frameWord ⟨q, bri, sri, p, w⟩) ⟨kbps, hz, p⟩ with
                  reads := ⟨s.pos, 4⟩ :: s.reads
                  port := s.port.tail
                  cnt := s.cnt + 1
                  pos := s.pos + len }) ∧
      (s.phase = .walk → 4 ≤ s.size - s.pos → s.size - s.pos < len →
        exec i s =
          .next { afterValidHeader s (frameWord ⟨q, bri, sri, p, w⟩) ⟨kbps, hz, p⟩ with
                  reads := ⟨s.pos, 4⟩ :: s.reads
                  port := s.port.tail
                  stop := .truncatedFrame
                  phase := .done }) ∧
      (s.phase = .walk → s.size - s.pos < 4 → exec i s = .next { s with stop := .endOfSource, phase := .done }) ∧
      (s.phase ≠ .metadata → s.phase ≠ .walk → exec i s = .next s)

/-! ### The Walker -/

/-- R164 to R168, R198: one WALK step. The loop condition first, then the read, then the parser's checks, then the
length; an accepted frame is counted and stepped over, a stop leaves POS and CNT. -/
def Obligations.WalkStepStopsOrCounts : Prop :=
  ∀ s : State, s.phase = .walk →
    (s.size - s.pos < 4 → exec .walkStep s = .next { s with stop := .endOfSource, phase := .done }) ∧
      (4 ≤ s.size - s.pos → ReadFails s s.pos 4 →
        exec .walkStep s =
          .next { s with reads := ⟨s.pos, 4⟩ :: s.reads, port := s.port.tail, stop := .ioError, phase := .fault }) ∧
      ∀ b : Nat → Byte, 4 ≤ s.size - s.pos → ReadServed s s.pos 4 b →
        (∀ c, parse (wordOf b) = .invalid c →
          exec .walkStep s =
            .next { s with
                    hdr := wordOf b
                    fhValid := false
                    reads := ⟨s.pos, 4⟩ :: s.reads
                    port := s.port.tail
                    invCause := c
                    stop := .invalidHeader
                    phase := .done }) ∧
          (∀ f, parse (wordOf b) = .valid f → s.size - s.pos < headerLength f →
            exec .walkStep s =
              .next { afterValidHeader s (wordOf b) f with
                      reads := ⟨s.pos, 4⟩ :: s.reads
                      port := s.port.tail
                      stop := .truncatedFrame
                      phase := .done }) ∧
          ∀ f, parse (wordOf b) = .valid f → headerLength f ≤ s.size - s.pos →
            exec .walkStep s =
              .next { afterValidHeader s (wordOf b) f with
                      reads := ⟨s.pos, 4⟩ :: s.reads
                      port := s.port.tail
                      cnt := s.cnt + 1
                      pos := s.pos + headerLength f }

/-- R26, R162, R163, R165: an internal step is enabled in its own phase only; in another phase nothing happens (log
entry 12). -/
def Obligations.InternalStepsWaitForTheirPhase : Prop :=
  ∀ s : State, (s.phase ≠ .tag → exec .tagStep s = .next s) ∧ (s.phase ≠ .metadata → exec .metaStep s = .next s) ∧
    (s.phase ≠ .walk → exec .walkStep s = .next s)

/-- R85, R165, R168: each of the 42 frame rows, and the two pseudo-elements (R87), in phase WALK: the row's kbps and Hz,
its length, counted and stepped over if it fits, else the truncated-frame stop. -/
def Obligations.AudioFramesAreCountedAndSteppedOver : Prop :=
  ∀ (i : Instr) (f : FrameBits) (s : State), i.frameBits? = some f → s.phase = .walk →
    ∃ kbps hz len, bitrateKbps f.bri = some kbps ∧ sampleRateHz f.sri = some hz ∧
      len = 144000 * kbps / hz + f.p.toNat ∧
      (len ≤ s.size - s.pos →
        exec i s =
          .next { afterValidHeader s (frameWord f) ⟨kbps, hz, f.p⟩ with
                  reads := ⟨s.pos, 4⟩ :: s.reads
                  port := s.port.tail
                  cnt := s.cnt + 1
                  pos := s.pos + len }) ∧
      (4 ≤ s.size - s.pos → s.size - s.pos < len →
        exec i s =
          .next { afterValidHeader s (frameWord f) ⟨kbps, hz, f.p⟩ with
                  reads := ⟨s.pos, 4⟩ :: s.reads
                  port := s.port.tail
                  stop := .truncatedFrame
                  phase := .done }) ∧
      (s.size - s.pos < 4 → exec i s = .next { s with stop := .endOfSource, phase := .done })

/-- R155, R156: a frame without a marker met by the META step is left for the Walker, its marker read only if it fits
(R154); in the other phases it is no element. -/
def Obligations.AudioFramesAreLeftByTheMetadataSkip : Prop :=
  ∀ (i : Instr) (f : FrameBits) (s : State), i.frameBits? = some f →
    (s.phase = .metadata → ∃ kbps hz len, bitrateKbps f.bri = some kbps ∧ sampleRateHz f.sri = some hz ∧
      len = 144000 * kbps / hz + f.p.toNat ∧
      (44 ≤ s.size - s.pos → len ≤ s.size - s.pos →
        exec i s =
          .next { afterValidHeader s (frameWord f) ⟨kbps, hz, f.p⟩ with
                  reads := ⟨s.pos + 36, 4⟩ :: ⟨s.pos, 4⟩ :: s.reads
                  port := s.port.tail.tail
                  phase := .walk }) ∧
      (44 ≤ s.size - s.pos → s.size - s.pos < len →
        exec i s =
          .next { afterValidHeader s (frameWord f) ⟨kbps, hz, f.p⟩ with
                  reads := ⟨s.pos, 4⟩ :: s.reads
                  port := s.port.tail
                  phase := .walk }) ∧
      (s.size - s.pos < 44 → exec i s = .next { s with phase := .walk })) ∧
      (s.phase ≠ .metadata → s.phase ≠ .walk → exec i s = .next s)

/-- R82, R166, R152: each of the ten invalid rows ends the pass in WALK with the cause of its class, POS and CNT
unchanged; in META it moves nothing and records nothing; in the other phases it is no element. -/
def Obligations.InvalidWordsEndThePassWithTheirCause : Prop :=
  ∀ (i : Instr) (c : Cause) (s : State), i.invalidCause? = some c →
    ∃ h : Word, i.headerWord = some h ∧
      (s.phase = .walk → 4 ≤ s.size - s.pos →
        exec i s =
          .next { s with
                  hdr := h
                  fhValid := false
                  reads := ⟨s.pos, 4⟩ :: s.reads
                  port := s.port.tail
                  invCause := c
                  stop := .invalidHeader
                  phase := .done }) ∧
      (s.phase = .walk → s.size - s.pos < 4 → exec i s = .next { s with stop := .endOfSource, phase := .done }) ∧
      (s.phase = .metadata → 44 ≤ s.size - s.pos →
        exec i s =
          .next { s with
                  hdr := h
                  fhValid := false
                  reads := ⟨s.pos, 4⟩ :: s.reads
                  port := s.port.tail
                  phase := .walk }) ∧
      (s.phase = .metadata → s.size - s.pos < 44 → exec i s = .next { s with phase := .walk }) ∧
      (s.phase ≠ .walk → s.phase ≠ .metadata → exec i s = .next s)

/-! ### Commands, reset, the end of a pass -/

/-- R160: START in IDLE, DONE or FAULT; a source shorter than 4 bytes ends the pass at once. -/
def Obligations.StartBeginsAPass : Prop :=
  ∀ (n : Nat) (s : State), (s.phase = .idle ∨ s.phase = .done ∨ s.phase = .fault) →
    (4 ≤ n → exec (.start n) s =
      .next { s with size := n, pos := 0, cnt := 0, stop := .none, invCause := .none, phase := .tag, reads := [] }) ∧
      (n < 4 → exec (.start n) s =
        .next { s with
                size := n
                pos := 0
                cnt := 0
                stop := .endOfSource
                invCause := .none
                phase := .done
                reads := [] })

/-- R175: ABORT of a running pass leaves every register but PHASE; no further read is issued. -/
def Obligations.AbortAbandonsThePass : Prop :=
  (∀ s : State, (s.phase = .tag ∨ s.phase = .metadata ∨ s.phase = .walk) →
      exec .abort s = .next { s with phase := .idle }) ∧
    (∀ (s : State) (rest : List HostInput), s.host = .abort :: rest →
      (s.phase = .tag ∨ s.phase = .metadata ∨ s.phase = .walk) →
      step s = .next { s with host := rest, phase := .idle }) ∧
    ∀ s : State, s.phase = .idle → s.host = [] → step s = .next s

/-- R176: START while busy and ABORT while not busy are ignored; asserted together, ABORT is applied first. -/
def Obligations.CommandsInTheWrongPhaseAreIgnored : Prop :=
  (∀ (n : Nat) (s : State), s.busy = true → exec (.start n) s = .next s) ∧
    (∀ s : State, s.busy = false → exec .abort s = .next s) ∧
    ∀ (n : Nat) (s : State) (rest : List HostInput), s.host = .abortStart n :: rest →
      step s = exec (.start n) { s with host := rest, phase := if s.busy then .idle else s.phase }

/-- R220, R221: hardware reset, as the state after it and as an event in any state. -/
def Obligations.HardwareResetAbandonsThePass : Prop :=
  (State.reset.phase = .idle ∧ State.reset.stop = .none ∧ State.reset.invCause = .none) ∧
    ∀ (s : State) (rest : List HostInput), s.host = .hardwareReset :: rest →
      ∃ t, step s = .next t ∧ t.phase = .idle ∧ t.stop = .none ∧ t.invCause = .none ∧ t.busy = false ∧
        t.done = false ∧ t.error = false ∧ t.mem = s.mem ∧ t.host = rest ∧ t.port = s.port

/-- R169, R215: in IDLE, DONE and FAULT no internal step is enabled and the registers hold. -/
def Obligations.QuiescentPhasesHoldTheirRegisters : Prop :=
  ∀ s : State, (s.phase = .idle ∨ s.phase = .done ∨ s.phase = .fault) →
    (s.host = [] → step s = .next s) ∧
      ∀ rest, s.host = .quiet :: rest → step s = .next { s with host := rest }

/-- R29, R30, R31: the flags are functions of PHASE, the ports show the live registers, with the codes of R26 to R28. -/
def Obligations.PortsShowTheRegisters : Prop :=
  (∀ s : State,
      (s.ports.busy = true ↔ s.phase = .tag ∨ s.phase = .metadata ∨ s.phase = .walk) ∧
        (s.ports.done = true ↔ s.phase = .done ∨ s.phase = .fault) ∧ (s.ports.error = true ↔ s.phase = .fault) ∧
        s.ports.count = s.cnt ∧ s.ports.posOut = s.pos ∧ s.ports.stop = stopCode s.stop ∧
        s.ports.invCause = causeCode s.invCause) ∧
    [Phase.idle, .tag, .metadata, .walk, .done, .fault].map Phase.code = [0#3, 1#3, 2#3, 3#3, 4#3, 5#3] ∧
    [Stop.none, .endOfSource, .invalidHeader, .truncatedFrame, .ioError].map stopCode = [0#3, 1#3, 2#3, 3#3, 4#3] ∧
    [Cause.none, .sync, .version, .layer, .bitrate, .sampleRate].map causeCode = [0#3, 1#3, 2#3, 3#3, 4#3, 5#3]

/-- R66, R203: in each step that reads, a failed read takes the fault entry: STOP and PHASE, with POS and CNT as they were
when the step began; no later internal step clears it, a START does. -/
def Obligations.FailedReadTakesTheFaultEntry : Prop :=
  (∀ s : State, NoCommand s →
      ((s.phase = .tag ∧ 10 ≤ s.size - s.pos ∧ ReadFails s s.pos 10) ∨
        (s.phase = .metadata ∧ 44 ≤ s.size - s.pos ∧ ReadFails s s.pos 4) ∨
        (s.phase = .metadata ∧ 44 ≤ s.size - s.pos ∧
          ∃ b f, ReadServed s s.pos 4 b ∧ parse (wordOf b) = .valid f ∧ headerLength f ≤ s.size - s.pos ∧
            ReadFails { s with port := s.port.tail } (s.pos + 36) 4) ∨
        (s.phase = .walk ∧ 4 ≤ s.size - s.pos ∧ ReadFails s s.pos 4)) →
      ∃ t, step s = .next t ∧ t.stop = .ioError ∧ t.phase = .fault ∧ t.pos = s.pos ∧ t.cnt = s.cnt ∧
        t.size = s.size ∧ t.invCause = s.invCause ∧ t.mem = s.mem ∧ t.done = true ∧ t.error = true) ∧
    (∀ s : State, s.phase = .fault → NoCommand s → step s = .next { s with host := s.host.tail }) ∧
    ∀ (s : State) (n : Nat) (rest : List HostInput), s.phase = .fault → s.host = .start n :: rest →
      ∃ t, step s = .next t ∧ t.error = false

/-- R236: a read that is never answered blocks the block, in each of the four places where a step reads; the model is
stuck under a name of its own (log entry 9). -/
def Obligations.UnansweredReadBlocksThePass : Prop :=
  ∀ s : State, NoCommand s →
    ((s.phase = .tag ∧ 10 ≤ s.size - s.pos ∧ ReadSilent s) ∨
      (s.phase = .metadata ∧ 44 ≤ s.size - s.pos ∧ ReadSilent s) ∨
      (s.phase = .metadata ∧ 44 ≤ s.size - s.pos ∧
        ∃ b f, ReadServed s s.pos 4 b ∧ parse (wordOf b) = .valid f ∧ headerLength f ≤ s.size - s.pos ∧
          ReadSilent { s with port := s.port.tail }) ∨
      (s.phase = .walk ∧ 4 ≤ s.size - s.pos ∧ ReadSilent s)) →
    step s = .fault .readNeverAnswered

/-! ### The step -/

/-- R70, R80: when the bytes at POS decode, in the phase of the pass, to an instruction, a step with no host command is
exec of that instruction, after which the transient registers are unspecified (R25). A boundary at which the host is
quiet is the internal step of the state with that input used up (log entry 10). -/
def Obligations.StepRunsTheDecodedInstruction : Prop :=
  (∀ (s : State) (t : Nat → Byte) (i : Instr), s.host = [] → s.phase = .tag → 10 ≤ s.size - s.pos →
      ReadServed s s.pos 10 t → decode .tag ((List.range 10).map t) = .ok i → step s = endStep (exec i s)) ∧
    (∀ (s : State) (b : Nat → Byte) (i : Instr), s.host = [] → s.phase = .walk → 4 ≤ s.size - s.pos →
      ReadServed s s.pos 4 b → decode .walk ((List.range 4).map b) = .ok i → step s = endStep (exec i s)) ∧
    (∀ (s : State) (b m : Nat → Byte) (f : FrameHeader) (gap : List Byte) (i : Instr), s.host = [] →
      s.phase = .metadata → 44 ≤ s.size - s.pos → ReadServed s s.pos 4 b → parse (wordOf b) = .valid f →
      headerLength f ≤ s.size - s.pos → ReadServed { s with port := s.port.tail } (s.pos + 36) 4 m →
      gap.length = 32 →
      decode .metadata ((List.range 4).map b ++ gap ++ (List.range 4).map m) = .ok i → step s = endStep (exec i s)) ∧
    (∀ (s : State) (i : Instr), s.host = [] → nextInstr s = some i → step s = endStep (exec i s)) ∧
    (∀ s : State, s.host = [] → step s = internalStep s) ∧
    (∀ (s : State) (rest : List HostInput), s.host = .quiet :: rest → step s = internalStep { s with host := rest }) ∧
    ∀ (s : State) (rest : List HostInput) (i : Instr), s.host = .quiet :: rest →
      nextInstr { s with host := rest } = some i → step s = endStep (exec i { s with host := rest })

/-- R80, R162, R163, R165: the element path and the pseudocode path are one: whatever element the fetch finds, running it
is running the internal step of the phase. -/
def Obligations.ElementsAgreeWithTheStepOfTheirPhase : Prop :=
  ∀ (s : State) (i : Instr), nextInstr s = some i → ∃ j, phaseStep s.phase = some j ∧ exec i s = exec j s

/-- The invariant holds after hardware reset (R220; SIZE, POS and CNT are the model's choice there, log entry 3). -/
def Obligations.InvariantHoldsAtReset : Prop := Inv State.reset

/-- R22, R24, R27, R28, R53: every step keeps the invariant, the host's commands and hardware reset included. -/
def Obligations.EveryStepKeepsTheInvariant : Prop :=
  ∀ s t : State, Inv s → step s = .next t → Inv t

/-- R24: across a pass POS never decreases and never exceeds SIZE. -/
def Obligations.PositionIsMonotoneAndInside : Prop :=
  ∀ s t : State, Inv s → NoCommand s → s.busy = true → step s = .next t →
    s.pos ≤ t.pos ∧ t.pos ≤ t.size ∧ t.size = s.size

/-- R161: PHASE moves TAG to META to WALK and never back; a pass ends in DONE or FAULT. -/
def Obligations.PhasesComeInOrder : Prop :=
  ∀ s t : State, NoCommand s → step s = .next t →
    (s.phase = .tag → t.phase = .metadata ∨ t.phase = .fault) ∧
      (s.phase = .metadata → t.phase = .walk ∨ t.phase = .fault) ∧
      (s.phase = .walk → t.phase = .walk ∨ t.phase = .done ∨ t.phase = .fault) ∧
      (s.busy = false → t.phase = s.phase)

/-- R20, R21, R22: who writes what. A step without a host command leaves SIZE; only a WALK step changes CNT, by one, and
then POS has moved by the frame's length; only a WALK step writes INV_CAUSE. -/
def Obligations.OnlyTheWalkerCounts : Prop :=
  ∀ s t : State, NoCommand s → step s = .next t →
    t.size = s.size ∧ t.mem = s.mem ∧
      (t.cnt ≠ s.cnt → s.phase = .walk ∧ t.phase = .walk ∧ t.cnt = s.cnt + 1 ∧ s.pos + 96 ≤ t.pos) ∧
      (t.invCause ≠ s.invCause → s.phase = .walk ∧ t.phase = .done ∧ t.stop = .invalidHeader) ∧
      (t.stop ≠ s.stop → t.phase = .done ∨ t.phase = .fault)

/-- R200, R201: stops are precise: a WALK step that ends the pass changes only STOP, INV_CAUSE and PHASE among the
registers that live between steps. -/
def Obligations.StopsArePrecise : Prop :=
  ∀ s t : State, NoCommand s → s.phase = .walk → step s = .next t → t.phase = .done →
    t.pos = s.pos ∧ t.cnt = s.cnt ∧ t.size = s.size ∧ t.mem = s.mem ∧
      (t.stop = .endOfSource ∨ t.stop = .invalidHeader ∨ t.stop = .truncatedFrame) ∧
      (t.stop ≠ .invalidHeader → t.invCause = s.invCause) ∧ (t.stop = .invalidHeader → t.invCause ≠ .none)

/-- R51: nothing mutates the byte source: every instruction and every step leaves every offset reading as before. -/
def Obligations.ByteSourceIsNeverWritten : Prop :=
  (∀ (i : Instr) (s t : State), exec i s = .next t → t.mem = s.mem ∧ ∀ off, t.mem.read off = s.mem.read off) ∧
    ∀ s t : State, step s = .next t → t.mem = s.mem ∧ ∀ off, t.mem.read off = s.mem.read off

/-- R53, R58, R60, R164: the reads a step issues, and that each lies inside the source. -/
def Obligations.StepsReadOnlyWhatTheyGuard : Prop :=
  ∀ s t : State, NoCommand s → step s = .next t →
    (s.phase = .tag → t.reads = if s.size - s.pos < 10 then s.reads else ⟨s.pos, 10⟩ :: s.reads) ∧
      (s.phase = .walk → t.reads = if s.size - s.pos < 4 then s.reads else ⟨s.pos, 4⟩ :: s.reads) ∧
      (s.phase = .metadata → s.size - s.pos < 44 → t.reads = s.reads) ∧
      (s.phase = .metadata → 44 ≤ s.size - s.pos →
        t.reads = ⟨s.pos, 4⟩ :: s.reads ∨ t.reads = ⟨s.pos + 36, 4⟩ :: ⟨s.pos, 4⟩ :: s.reads) ∧
      (s.busy = false → t.reads = s.reads)

/-- R60, D21: no step reads past the source, so no step is refused. -/
def Obligations.NoStepIsRefused : Prop :=
  ∀ (s : State) (r : Refusal), step s ≠ .refused r

/-- R54, R66: over a whole source behind a port that serves every read, a pass never faults. -/
def Obligations.WholeSourceNeverFaults : Prop :=
  ∀ (s : State) (src : Nat → Byte), Inv s → NoCommand s → s.phase ≠ .fault → PortServes s → SourceIs s src s.size →
    StepSafe s

/-- Property Q10 (R145, R168): a step does not depend on any byte it does not read: two sources that agree on the bytes it
reads, each under the guard of its read (R53, R154), give the same outcome. -/
def Obligations.StepsDoNotSeeUnreadBytes : Prop :=
  ∀ (s : State) (m : Memory), NoCommand s →
    (s.phase = .tag → 10 ≤ s.size - s.pos → ∀ k, k < 10 → m.read (s.pos + k) = s.mem.read (s.pos + k)) →
    (s.phase = .walk → 4 ≤ s.size - s.pos → ∀ k, k < 4 → m.read (s.pos + k) = s.mem.read (s.pos + k)) →
    (s.phase = .metadata → 44 ≤ s.size - s.pos → ∀ k, k < 4 → m.read (s.pos + k) = s.mem.read (s.pos + k)) →
    (s.phase = .metadata → 44 ≤ s.size - s.pos → ∀ b f, ReadServed s s.pos 4 b → parse (wordOf b) = .valid f →
      headerLength f ≤ s.size - s.pos → ∀ k, k < 4 → m.read (s.pos + 36 + k) = s.mem.read (s.pos + 36 + k)) →
    step (s.withSource m) = outcomeWithSource m (step s)

/-! ### Passes -/

/-- R171: every pass ends: after START and at most SIZE + 3 more steps it is in DONE or FAULT, whatever the source holds
and however the port answers, if it answers (R236). -/
def Obligations.EveryPassEnds : Prop :=
  ∀ (s : State) (n : Nat), s.busy = false → PortAnswers s →
    ∃ k t, 1 ≤ k ∧ k ≤ n + 4 ∧ Host.Core.run Sys2Proof.core k { s with host := [.start n] } = .next t ∧
      t.host = [] ∧ t.size = n ∧ (t.phase = .done ∨ t.phase = .fault)

/-- R172 (property Q8): the step-by-step machine and the function COUNTFRAMES agree: over a whole source, the count at
DONE is the function's value. -/
def Obligations.PassCountsWhatCountFramesCounts : Prop :=
  ∀ (s : State) (src : Nat → Byte) (n : Nat), s.busy = false → PortServes s → SourceIs s src n →
    ∃ k t, 1 ≤ k ∧ k ≤ n + 4 ∧ Host.Core.run Sys2Proof.core k { s with host := [.start n] } = .next t ∧ t.host = [] ∧
      t.phase = .done ∧ t.size = n ∧ t.cnt = countFrames src n ∧ t.pos ≤ n

/-- R172, R195, R176: COUNTFRAMES as one instruction: over a whole source it leaves the pass DONE with the function's
value as its result; a failed read gives a ParseError; while busy it is ignored. -/
def Obligations.CountframesInstructionIsTheWholePass : Prop :=
  (∀ (s : State) (src : Nat → Byte) (n : Nat), s.busy = false → PortServes s → SourceIs s src n →
      ∃ t, exec (.countframes n) s = .next t ∧ t.phase = .done ∧ t.size = n ∧ t.cnt = countFrames src n ∧
        t.fout = .count (countFrames src n) ∧ t.mem = s.mem) ∧
    (∀ (s : State) (n : Nat), s.busy = false → PortAnswers s →
      ∃ t, exec (.countframes n) s = .next t ∧
        ((t.phase = .done ∧ t.fout = .count t.cnt) ∨
          (t.phase = .fault ∧ t.stop = .ioError ∧ t.fout = .parseError))) ∧
    ∀ (s : State) (n : Nat), s.busy = true → exec (.countframes n) s = .next s

/-- R173, R222: a pass depends on nothing that precedes its START: two quiescent blocks with the same source and port
give the same registers. -/
def Obligations.PassDependsOnNothingBeforeIt : Prop :=
  ∀ (s1 s2 t1 : State) (n : Nat), s1.busy = false → s2.busy = false → s1.mem = s2.mem → s1.port = s2.port →
    exec (.countframes n) s1 = .next t1 → ∃ t2, exec (.countframes n) s2 = .next t2 ∧ sameResult t1 t2

/-- R170: a source shorter than 4 bytes: count 0, no error, no read. -/
def Obligations.ShortSourceCountsZero : Prop :=
  ∀ (s : State) (n : Nat), s.busy = false → n < 4 →
    exec (.countframes n) s =
      .next { s with
              size := n
              pos := 0
              cnt := 0
              stop := .endOfSource
              invCause := .none
              phase := .done
              reads := []
              fout := .count 0 }

/-- R179: a source that has no parseable frame header at the position after its tag (or at offset 0, where it has no
tag) returns 0 without an error. -/
def Obligations.NoParseableHeaderCountsZero : Prop :=
  ∀ (s : State) (src : Nat → Byte) (n : Nat), s.busy = false → PortServes s → SourceIs s src n →
    (∀ f, parse (srcWord src (tagSkipOf src n 0)) ≠ .valid f) →
    ∃ t, exec (.countframes n) s = .next t ∧ t.phase = .done ∧ t.cnt = 0 ∧ t.error = false

/-- R86, R87: a FRAME line of the notation expands to as many bytes as its frame is long, and they begin with a word of
its row; FRAME128 and FRAME128P are 417 and 418 bytes. -/
def Obligations.FrameLinesExpandToFrames : Prop :=
  (∀ (br : BitVec 4) (sr : BitVec 2) (pad prot : BitVec 1) (low : BitVec 9) (b : Byte) (kbps hz : Nat),
      bitrateKbps br = some kbps → sampleRateHz sr = some hz →
      ∃ bs i, (StreamLine.frame br sr pad prot low b).expand = some bs ∧
        bs.length = 144000 * kbps / hz + pad.toNat ∧ decode .walk bs = .ok i ∧
        i.frameBits? = some ⟨prot, br, sr, pad, low⟩) ∧
    (StreamLine.frame128.expand.map List.length = some 417 ∧ StreamLine.frame128p.expand.map List.length = some 418)

/-! ### The read port -/

/-- R55, R52: the answers of the port. A request that is answered with data carries in `rd_n` the number of bytes, at most
as many as requested, and in bits 8i+7 : 8i of the 80-bit `rd_data` the byte at `rd_off + i`, for every lane below `rd_n`;
where the port serves and the source has the bytes, all of them come. What MemRead gives is the first lanes of
`rd_data`. A lane at or above `rd_n` is a free value of which nothing is said (log entry 8). -/
def Obligations.ReadPortCarriesTheBytesInItsLanes : Prop :=
  (∀ (s : State) (off len : Nat) (a : ReadAnswer), len ≤ 10 → portAnswer s off len = some a → a.err = false →
      a.n.toNat ≤ len ∧ ∀ i, i < a.n.toNat → s.mem.read (off + i) = some (a.data.extractLsb' (8 * i) 8)) ∧
    (∀ (s : State) (off len : Nat) (bytes : Nat → Byte), len ≤ 10 → ReadServed s off len bytes →
      ∃ a, portAnswer s off len = some a ∧ a.err = false ∧ a.n = BitVec.ofNat 4 len) ∧
    ∀ (s t : State) (off len : Nat) (bs : List Byte), len ≤ 10 → memRead off len s = .ok bs t →
      ∃ a, portAnswer s off len = some a ∧ a.err = false ∧ a.n.toNat = len ∧
        bs = (List.range len).map (fun i => a.data.extractLsb' (8 * i) 8) ∧
        t.reads = ⟨off, BitVec.ofNat 4 len⟩ :: s.reads

/-- R13 (log entry 10): a step does not see the commands to come: a quiet boundary does what the step without any
command does, with the rest of the input still to come. -/
def Obligations.QuietBoundariesAreStepsWithoutCommand : Prop :=
  ∀ (s : State) (rest : List HostInput), s.host = .quiet :: rest →
    step s = outcomeWithHost rest (step { s with host := [] })
end

