-- ==== Sys2Proof/Laws/Encoding.lean ====
section
/-! SUPPORT. The extractor as a bit slice, the fields of a header word, and what the parser says of them. -/

namespace Sys2Proof.Machine

/-! ### The extractor -/

theorem extractBits_eq (v : Word) (b w : Nat) : extractBits v b w = v.toNat / 2 ^ (b + 1 - w) % 2 ^ w := by
  rw [extractBits, Nat.shiftRight_eq_div_pow]

/-- The extractor's field is the slice of the same bits. -/
theorem extractBits_slice (v : Word) (b w lo : Nat) (h : lo = b + 1 - w) :
    extractBits v b w = (v.extractLsb' lo w).toNat := by
  rw [extractBits_eq, BitVec.extractLsb'_toNat, Nat.shiftRight_eq_div_pow, h]

theorem syncField_eq (h : Word) : syncField h = (h.extractLsb' 21 11).toNat := extractBits_slice h 31 11 21 rfl
theorem versionField_eq (h : Word) : versionField h = (h.extractLsb' 19 2).toNat := extractBits_slice h 20 2 19 rfl
theorem layerField_eq (h : Word) : layerField h = (h.extractLsb' 17 2).toNat := extractBits_slice h 18 2 17 rfl
theorem bitrateIndex_eq (h : Word) : bitrateIndex h = (h.extractLsb' 12 4).toNat := extractBits_slice h 15 4 12 rfl
theorem sampleRateIndex_eq (h : Word) : sampleRateIndex h = (h.extractLsb' 10 2).toNat := extractBits_slice h 11 2 10 rfl
theorem paddingField_eq (h : Word) : paddingField h = (h.extractLsb' 9 1).toNat := extractBits_slice h 9 1 9 rfl

/-- The parser over slices. -/
theorem parse_eq (h : Word) :
    parse h =
      if h.extractLsb' 21 11 ≠ Config.syncValue then .invalid .sync
      else if h.extractLsb' 19 2 ≠ Config.versionMpeg1 then .invalid .version
      else if h.extractLsb' 17 2 ≠ Config.layerIII then .invalid .layer
      else
        match bitrateKbps (h.extractLsb' 12 4) with
        | none => .invalid .bitrate
        | some kbps =>
          match sampleRateHz (h.extractLsb' 10 2) with
          | none => .invalid .sampleRate
          | some hz => .valid ⟨kbps, hz, h.extractLsb' 9 1⟩ := by
  simp only [parse, syncField_eq, versionField_eq, layerField_eq, bitrateIndex_eq, sampleRateIndex_eq,
    paddingField_eq, ne_eq, BitVec.toNat_inj, BitVec.ofNat_toNat, BitVec.setWidth_eq] <;> rfl

/-- Two words with the same checked fields parse alike. -/
theorem parse_congr (h k : Word) (h1 : h.extractLsb' 21 11 = k.extractLsb' 21 11)
    (h2 : h.extractLsb' 19 2 = k.extractLsb' 19 2) (h3 : h.extractLsb' 17 2 = k.extractLsb' 17 2)
    (h4 : h.extractLsb' 12 4 = k.extractLsb' 12 4) (h5 : h.extractLsb' 10 2 = k.extractLsb' 10 2)
    (h6 : h.extractLsb' 9 1 = k.extractLsb' 9 1) : parse h = parse k := by
  rw [parse_eq, parse_eq, h1, h2, h3, h4, h5, h6]

/-! ### The tables -/

theorem bitrateKbps_none (b : BitVec 4) : bitrateKbps b = none ↔ b = 0#4 ∨ b = 15#4 := by
  revert b; decide

theorem sampleRateHz_none (b : BitVec 2) : sampleRateHz b = none ↔ b = 3#2 := by
  revert b; decide

/-- Every bitrate of the table is even, at least 32 and at most 320. -/
theorem bitrateKbps_range (b : BitVec 4) (k : Nat) (h : bitrateKbps b = some k) : 32 ≤ k ∧ k ≤ 320 := by
  revert b
  have : ∀ b : BitVec 4, ∀ j ∈ bitrateKbps b, 32 ≤ j ∧ j ≤ 320 := by decide
  exact fun b hb => this b k hb

theorem sampleRateHz_cases (b : BitVec 2) (z : Nat) (h : sampleRateHz b = some z) :
    z = 44100 ∨ z = 48000 ∨ z = 32000 := by
  revert b
  have : ∀ b : BitVec 2, ∀ j ∈ sampleRateHz b, j = 44100 ∨ j = 48000 ∨ j = 32000 := by decide
  exact fun b hb => this b z hb

/-! ### The verdicts -/

/-- What a valid verdict says of the word. -/
theorem parse_valid (h : Word) (f : FrameHeader) :
    parse h = .valid f ↔
      h.extractLsb' 21 11 = Config.syncValue ∧ h.extractLsb' 19 2 = Config.versionMpeg1 ∧
        h.extractLsb' 17 2 = Config.layerIII ∧ bitrateKbps (h.extractLsb' 12 4) = some f.kbps ∧
        sampleRateHz (h.extractLsb' 10 2) = some f.hz ∧ f.padding = h.extractLsb' 9 1 := by
  rw [parse_eq]
  by_cases h1 : h.extractLsb' 21 11 = Config.syncValue
  · by_cases h2 : h.extractLsb' 19 2 = Config.versionMpeg1
    · by_cases h3 : h.extractLsb' 17 2 = Config.layerIII
      · simp only [h1, h2, h3, ne_eq, not_true_eq_false, if_false, true_and]
        cases hk : bitrateKbps (h.extractLsb' 12 4) with
        | none => simp
        | some kbps =>
          cases hz : sampleRateHz (h.extractLsb' 10 2) with
          | none => simp
          | some hz =>
            obtain ⟨a, b, c⟩ := f
            simp [eq_comm]
      · simp [h1, h2, h3]
    · simp [h1, h2]
  · simp [h1]

/-- The frame of a valid header is 96 to 1441 bytes long (R133). -/
theorem headerLength_range (h : Word) (f : FrameHeader) (hv : parse h = .valid f) :
    96 ≤ headerLength f ∧ headerLength f ≤ 1441 := by
  obtain ⟨-, -, -, hk, hz, -⟩ := (parse_valid h f).1 hv
  obtain ⟨h1, h2⟩ := bitrateKbps_range _ _ hk
  have hp := f.padding.isLt
  simp only [headerLength, frameLength, Config.flenCoeff]
  rcases sampleRateHz_cases _ _ hz with e | e | e <;> rw [e] <;> omega

/-- A cause is never `NONE`. -/
theorem parse_invalid_ne (h : Word) (c : Cause) (hv : parse h = .invalid c) : c ≠ .none := by
  rw [parse_eq] at hv
  repeat' split at hv
  all_goals first
    | (injection hv with hv; subst hv; decide)
    | exact absurd hv (by simp)

/-! ### The words of the rows -/

/-- Two fields side by side, as a number. -/
theorem append_toNat {m n : Nat} (x : BitVec m) (y : BitVec n) : (x ++ y).toNat = x.toNat * 2 ^ n + y.toNat := by
  rw [BitVec.toNat_append, ← Nat.shiftLeft_add_eq_or_of_lt y.isLt, Nat.shiftLeft_eq]

/-- A slice of a word whose number is known. -/
theorem slice_eq (h : Word) (lo len : Nat) (x : BitVec len) (e : h.toNat / 2 ^ lo % 2 ^ len = x.toNat) :
    h.extractLsb' lo len = x := by
  apply BitVec.eq_of_toNat_eq
  rw [BitVec.extractLsb'_toNat, Nat.shiftRight_eq_div_pow, e]

theorem frameWord_toNat (f : FrameBits) :
    (frameWord f).toNat = 2047 * 2 ^ 21 + 3 * 2 ^ 19 + 1 * 2 ^ 17 + f.q.toNat * 2 ^ 16 + f.bri.toNat * 2 ^ 12 +
      f.sri.toNat * 2 ^ 10 + f.p.toNat * 2 ^ 9 + f.w.toNat := by
  simp only [frameWord, append_toNat, Config.syncValue, Config.versionMpeg1, Config.layerIII, BitVec.toNat_ofNat]
  omega

theorem syncWord_toNat (sync : BitVec 11) (rest : BitVec 21) :
    (syncWord sync rest).toNat = sync.toNat * 2 ^ 21 + rest.toNat := append_toNat sync rest

theorem versionWord_toNat (ver : BitVec 2) (rest : BitVec 19) :
    (versionWord ver rest).toNat = 2047 * 2 ^ 21 + ver.toNat * 2 ^ 19 + rest.toNat := by
  simp only [versionWord, append_toNat, Config.syncValue, BitVec.toNat_ofNat]
  omega

theorem layerWord_toNat (layer : BitVec 2) (rest : BitVec 17) :
    (layerWord layer rest).toNat = 2047 * 2 ^ 21 + 3 * 2 ^ 19 + layer.toNat * 2 ^ 17 + rest.toNat := by
  simp only [layerWord, append_toNat, Config.syncValue, Config.versionMpeg1, BitVec.toNat_ofNat]
  omega

theorem bitrateWord_toNat (q : BitVec 1) (bri : BitVec 4) (rest : BitVec 12) :
    (bitrateWord q bri rest).toNat =
      2047 * 2 ^ 21 + 3 * 2 ^ 19 + 1 * 2 ^ 17 + q.toNat * 2 ^ 16 + bri.toNat * 2 ^ 12 + rest.toNat := by
  simp only [bitrateWord, append_toNat, Config.syncValue, Config.versionMpeg1, Config.layerIII, BitVec.toNat_ofNat]
  omega

theorem sampleRateWord_toNat (q : BitVec 1) (bri : BitVec 4) (rest : BitVec 10) :
    (sampleRateWord q bri rest).toNat =
      2047 * 2 ^ 21 + 3 * 2 ^ 19 + 1 * 2 ^ 17 + q.toNat * 2 ^ 16 + bri.toNat * 2 ^ 12 + 3 * 2 ^ 10 + rest.toNat := by
  simp only [sampleRateWord, append_toNat, Config.syncValue, Config.versionMpeg1, Config.layerIII, BitVec.toNat_ofNat]
  omega

/-- A word is its fields of R71. -/
theorem word_of_fields (h : Word) :
    h.toNat = (h.extractLsb' 21 11).toNat * 2 ^ 21 + (h.extractLsb' 19 2).toNat * 2 ^ 19 +
      (h.extractLsb' 17 2).toNat * 2 ^ 17 + (h.extractLsb' 16 1).toNat * 2 ^ 16 + (h.extractLsb' 12 4).toNat * 2 ^ 12 +
      (h.extractLsb' 10 2).toNat * 2 ^ 10 + (h.extractLsb' 9 1).toNat * 2 ^ 9 + (h.extractLsb' 0 9).toNat := by
  have := h.isLt
  simp only [BitVec.extractLsb'_toNat, Nat.shiftRight_eq_div_pow]
  omega

/-- The fields of a frame's word are the ones it was made of. -/
theorem frameWord_fields (f : FrameBits) :
    (frameWord f).extractLsb' 21 11 = Config.syncValue ∧ (frameWord f).extractLsb' 19 2 = Config.versionMpeg1 ∧
      (frameWord f).extractLsb' 17 2 = Config.layerIII ∧ (frameWord f).extractLsb' 16 1 = f.q ∧
      (frameWord f).extractLsb' 12 4 = f.bri ∧ (frameWord f).extractLsb' 10 2 = f.sri ∧
      (frameWord f).extractLsb' 9 1 = f.p ∧ (frameWord f).extractLsb' 0 9 = f.w := by
  have h1 := f.q.isLt
  have h2 := f.bri.isLt
  have h3 := f.sri.isLt
  have h4 := f.p.isLt
  have h5 := f.w.isLt
  refine ⟨?_, ?_, ?_, ?_, ?_, ?_, ?_, ?_⟩ <;> apply slice_eq <;> rw [frameWord_toNat] <;>
    (try simp only [Config.syncValue, Config.versionMpeg1, Config.layerIII, BitVec.toNat_ofNat]) <;> omega

/-- A synthetically built header parses to the table's values (R120). -/
theorem parse_frameWord (f : FrameBits) (kbps hz : Nat) (hk : bitrateKbps f.bri = some kbps)
    (hs : sampleRateHz f.sri = some hz) : parse (frameWord f) = .valid ⟨kbps, hz, f.p⟩ := by
  obtain ⟨h1, h2, h3, -, h5, h6, h7, -⟩ := frameWord_fields f
  rw [parse_valid]
  exact ⟨h1, h2, h3, by rw [h5]; exact hk, by rw [h6]; exact hs, h7.symm⟩

theorem be32_toNat (b0 b1 b2 b3 : Byte) :
    (be32 b0 b1 b2 b3).toNat = b0.toNat * 2 ^ 24 + b1.toNat * 2 ^ 16 + b2.toNat * 2 ^ 8 + b3.toNat := by
  simp only [be32, append_toNat]
  omega

/-- The bytes of a word, assembled again. -/
theorem be32_wordBytes (h : Word) :
    be32 (h.extractLsb' 24 8) (h.extractLsb' 16 8) (h.extractLsb' 8 8) (h.extractLsb' 0 8) = h := by
  apply BitVec.eq_of_toNat_eq
  have := h.isLt
  rw [be32_toNat]
  simp only [BitVec.extractLsb'_toNat, Nat.shiftRight_eq_div_pow]
  omega

/-- The bytes of an assembled word. -/
theorem wordBytes_be32 (b0 b1 b2 b3 : Byte) : wordBytes (be32 b0 b1 b2 b3) = [b0, b1, b2, b3] := by
  have h0 := b0.isLt
  have h1 := b1.isLt
  have h2 := b2.isLt
  have h3 := b3.isLt
  have e := be32_toNat b0 b1 b2 b3
  unfold wordBytes
  rw [slice_eq _ 24 8 b0 (by rw [e]; omega), slice_eq _ 16 8 b1 (by rw [e]; omega),
    slice_eq _ 8 8 b2 (by rw [e]; omega), slice_eq _ 0 8 b3 (by rw [e]; omega)]

/-! ### The frame rows -/

/-- The decoder's row of two valid indexes is well formed, holds the bits it was made of, and has their word. -/
theorem frameRow_ok (q : BitVec 1) (bri : BitVec 4) (sri : BitVec 2) (p : BitVec 1) (w : BitVec 9)
    (hv : validIndexes bri sri = true) :
    ∃ i, frameRow q bri sri p w = .ok i ∧ i.wf = true ∧ i.frameBits? = some ⟨q, bri, sri, p, w⟩ ∧
      i.invalidCause? = none ∧ i.headerWord = some (frameWord ⟨q, bri, sri, p, w⟩) := by
  have hb : bri.toNat < 16 := bri.isLt
  have hs : sri.toNat < 4 := sri.isLt
  have key : ∀ (x : Fin 16) (y : Fin 4), validIndexes (BitVec.ofNat 4 x) (BitVec.ofNat 2 y) = true →
      1 ≤ x.val ∧ x.val ≤ 14 ∧ y.val ≤ 2 := by decide
  have range := key ⟨bri.toNat, hb⟩ ⟨sri.toNat, hs⟩ (by simpa using hv)
  simp only at range
  obtain ⟨h1, h2, h3⟩ := range
  have eB : bri = BitVec.ofNat 4 bri.toNat := by simp
  have eC : sri = BitVec.ofNat 2 sri.toNat := by simp
  generalize bri.toNat = n at *
  generalize sri.toNat = m at *
  subst eB
  subst eC
  interval_cases n <;> interval_cases m <;> exact ⟨_, rfl, rfl, rfl, rfl, rfl⟩

end Sys2Proof.Machine
end

