-- ==== Sys2Proof/Laws/Memory.lean ====
section
/-! SUPPORT. The byte source as data: reading after writing, the canonical form, and what a read returns. -/

namespace Sys2Proof.Machine

open Host

/-! ### One byte -/

@[simp] theorem read_nil (off : Nat) : Memory.read [] off = none := rfl

theorem read_cons (a : Nat) (b : Byte) (m : Memory) (off : Nat) :
    Memory.read ((a, b) :: m) off = if a = off then some b else Memory.read m off := rfl

theorem read_write_same (m : Memory) (off : Nat) (v : Byte) : (m.write off v).read off = some v := by
  induction m with
  | nil => simp [Memory.write, read_cons]
  | cons c m ih =>
    obtain ⟨a, b⟩ := c
    simp only [Memory.write]
    split
    · simp [read_cons]
    · split
      · simp [read_cons]
      · rename_i h
        rw [read_cons, if_neg (Ne.symm h), ih]

theorem read_write_other (m : Memory) (off other : Nat) (v : Byte) (h : other ≠ off) :
    (m.write off v).read other = m.read other := by
  induction m with
  | nil => simp [Memory.write, read_cons, Ne.symm h]
  | cons c m ih =>
    obtain ⟨a, b⟩ := c
    simp only [Memory.write]
    split
    · rw [read_cons, if_neg (Ne.symm h)]
    · split
      · rename_i h2
        rw [read_cons, if_neg (Ne.symm h), read_cons, if_neg (by omega)]
      · rw [read_cons, ih, read_cons]

/-! ### The canonical form -/

theorem wf_cons (a : Nat) (b : Byte) (m : Memory) :
    Memory.wf ((a, b) :: m) = true ↔ (∀ c ∈ m.head?, a < c.1) ∧ Memory.wf m = true := by
  cases m with
  | nil => simp [Memory.wf]
  | cons c m =>
    obtain ⟨a2, b2⟩ := c
    simp [Memory.wf]

theorem write_head (m : Memory) (off : Nat) (v : Byte) (low : Nat) (hm : ∀ c ∈ m.head?, low < c.1) (h : low < off) :
    ∀ c ∈ (m.write off v).head?, low < c.1 := by
  cases m with
  | nil => simpa [Memory.write] using h
  | cons c m =>
    obtain ⟨a, b⟩ := c
    have ha : low < a := hm (a, b) (by simp)
    simp only [Memory.write]
    split
    · simpa using h
    · split
      · simpa using h
      · simpa using ha

/-- Writing keeps the canonical form. -/
theorem write_wf (m : Memory) (off : Nat) (v : Byte) (h : m.wf = true) : (m.write off v).wf = true := by
  induction m with
  | nil => rfl
  | cons c m ih =>
    obtain ⟨a, b⟩ := c
    obtain ⟨h1, h2⟩ := (wf_cons a b m).1 h
    simp only [Memory.write]
    split
    · rename_i h3
      exact (wf_cons _ _ _).2 ⟨by simpa using h3, h⟩
    · split
      · rename_i h3
        subst h3
        exact (wf_cons _ _ _).2 ⟨h1, h2⟩
      · exact (wf_cons _ _ _).2 ⟨write_head m off v a h1 (by omega), ih h2⟩

theorem read_none_of_low (m : Memory) (off : Nat) (hw : m.wf = true) (h : ∀ c ∈ m.head?, off < c.1) :
    m.read off = none := by
  induction m with
  | nil => rfl
  | cons c m ih =>
    obtain ⟨a, b⟩ := c
    obtain ⟨h1, h2⟩ := (wf_cons a b m).1 hw
    have ha : off < a := h (a, b) (by simp)
    rw [read_cons, if_neg (by omega)]
    exact ih h2 fun c hc => by have := h1 c hc; omega

/-- In canonical form a memory is determined by what its offsets read as. -/
theorem wf_ext (m n : Memory) (hm : m.wf = true) (hn : n.wf = true) (h : ∀ off, m.read off = n.read off) : m = n := by
  induction m generalizing n with
  | nil =>
    cases n with
    | nil => rfl
    | cons c n =>
      obtain ⟨a, b⟩ := c
      have := h a
      simp [read_cons] at this
  | cons c m ih =>
    obtain ⟨a, b⟩ := c
    obtain ⟨h1, h2⟩ := (wf_cons a b m).1 hm
    cases n with
    | nil => have := h a; simp [read_cons] at this
    | cons d n =>
      obtain ⟨a2, b2⟩ := d
      obtain ⟨h3, h4⟩ := (wf_cons a2 b2 n).1 hn
      have key : a = a2 := by
        rcases Nat.lt_trichotomy a a2 with hl | he | hl
        · have h5 := h a
          rw [read_cons, if_pos rfl, read_none_of_low _ a hn (by simpa using hl)] at h5
          exact absurd h5 (by simp)
        · exact he
        · have h5 := h a2
          rw [read_none_of_low _ a2 hm (by simpa using hl), read_cons, if_pos rfl] at h5
          exact absurd h5 (by simp)
      subst key
      have hb : b = b2 := by
        have h5 := h a
        rw [read_cons, if_pos rfl, read_cons, if_pos rfl] at h5
        exact Option.some.inj h5
      subst hb
      rw [ih n h2 h4 ?_]
      intro off
      by_cases ho : a = off
      · subst ho
        rw [read_none_of_low m a h2 h1, read_none_of_low n a h4 h3]
      · have h5 := h off
        rwa [read_cons, if_neg ho, read_cons, if_neg ho] at h5

/-! ### A source given by its bytes -/

theorem zipIdx_wf (bs : List Byte) (k : Nat) : Memory.wf ((bs.zipIdx k).map fun x => (x.2, x.1)) = true := by
  induction bs generalizing k with
  | nil => rfl
  | cons b bs ih =>
    rw [List.zipIdx_cons, List.map_cons]
    refine (wf_cons _ _ _).2 ⟨?_, ih (k + 1)⟩
    cases bs <;> simp [List.zipIdx_cons]

/-- A source made of a list of bytes is in canonical form. -/
theorem ofBytes_wf (bs : List Byte) : (Memory.ofBytes bs).wf = true := zipIdx_wf bs 0

theorem zipIdx_read (bs : List Byte) (k off : Nat) :
    Memory.read ((bs.zipIdx k).map fun x => (x.2, x.1)) (k + off) = bs[off]? := by
  induction bs generalizing k off with
  | nil => rfl
  | cons b bs ih =>
    rw [List.zipIdx_cons, List.map_cons, read_cons]
    cases off with
    | zero => simp
    | succ off =>
      rw [if_neg (by omega), show k + (off + 1) = (k + 1) + off by omega, ih]
      simp

/-- It reads as the list. -/
theorem ofBytes_read (bs : List Byte) (off : Nat) : (Memory.ofBytes bs).read off = bs[off]? := by
  have := zipIdx_read bs 0 off
  rwa [Nat.zero_add] at this

/-! ### Several bytes -/

theorem readAt_length_le (m : Memory) (off len : Nat) : (m.readAt off len).length ≤ len := by
  induction len generalizing off with
  | zero => simp [Memory.readAt]
  | succ len ih =>
    simp only [Memory.readAt]
    split
    · simp
    · simpa using ih (off + 1)

/-- Where every byte is there, the read is whole. -/
theorem readAt_full (m : Memory) (off len : Nat) (bytes : Nat → Byte)
    (h : ∀ k, k < len → m.read (off + k) = some (bytes k)) : m.readAt off len = (List.range len).map bytes := by
  induction len generalizing off bytes with
  | zero => rfl
  | succ len ih =>
    have h0 := h 0 (by omega)
    rw [Nat.add_zero] at h0
    simp only [Memory.readAt, h0]
    rw [List.range_succ_eq_map, List.map_cons, List.map_map]
    rw [ih (off + 1) (fun k => bytes (k + 1)) fun k hk => by
      have := h (k + 1) (by omega)
      rwa [show off + 1 + k = off + (k + 1) by omega]]
    rfl

/-- Where a byte is missing, the read comes back short. -/
theorem readAt_short (m : Memory) (off len k : Nat) (hk : k < len) (h : m.read (off + k) = none) :
    (m.readAt off len).length < len := by
  induction len generalizing off k with
  | zero => omega
  | succ len ih =>
    simp only [Memory.readAt]
    split
    · simp
    · rename_i b hb
      cases k with
      | zero => rw [Nat.add_zero] at h; rw [h] at hb; exact absurd hb (by simp)
      | succ k =>
        have := ih (off + 1) k (by omega) (by rwa [show off + 1 + k = off + (k + 1) by omega])
        simpa using this

/-- A read returns what each of its offsets reads as, and only that. -/
theorem readAt_congr (m n : Memory) (off len : Nat) (h : ∀ k, k < len → m.read (off + k) = n.read (off + k)) :
    m.readAt off len = n.readAt off len := by
  induction len generalizing off with
  | zero => rfl
  | succ len ih =>
    have h0 := h 0 (by omega)
    rw [Nat.add_zero] at h0
    simp only [Memory.readAt, h0]
    rw [ih (off + 1) fun k hk => by
      have := h (k + 1) (by omega)
      rwa [show off + 1 + k = off + (k + 1) by omega]]

theorem whole_iff (m : Memory) (size : Nat) : m.whole size = true ↔ ∀ k, k < size → (m.read k).isSome = true := by
  simp [Memory.whole]

end Sys2Proof.Machine
end

