-- ==== Sys2Proof/Laws/State.lean ====
section
/-! SUPPORT. What each update of the state does to each field, so that no proof unfolds a record update. -/

namespace Sys2Proof.Machine

/-! ### The numbers of R7 -/

@[simp] theorem headerLen_eq : Config.headerLen = 4 := rfl
@[simp] theorem tagHdrLen_eq : Config.tagHdrLen = 10 := rfl
@[simp] theorem metaOffset_eq : Config.metaOffset = 36 := rfl
@[simp] theorem metaMin_eq : Config.metaMin = 44 := rfl

/-! ### afterRead -/

@[simp] theorem afterRead_phase (s : State) (off len : Nat) : (s.afterRead off len).phase = s.phase := rfl
@[simp] theorem afterRead_size (s : State) (off len : Nat) : (s.afterRead off len).size = s.size := rfl
@[simp] theorem afterRead_pos (s : State) (off len : Nat) : (s.afterRead off len).pos = s.pos := rfl
@[simp] theorem afterRead_cnt (s : State) (off len : Nat) : (s.afterRead off len).cnt = s.cnt := rfl
@[simp] theorem afterRead_stop (s : State) (off len : Nat) : (s.afterRead off len).stop = s.stop := rfl
@[simp] theorem afterRead_invCause (s : State) (off len : Nat) : (s.afterRead off len).invCause = s.invCause := rfl
@[simp] theorem afterRead_hdr (s : State) (off len : Nat) : (s.afterRead off len).hdr = s.hdr := rfl
@[simp] theorem afterRead_fhValid (s : State) (off len : Nat) : (s.afterRead off len).fhValid = s.fhValid := rfl
@[simp] theorem afterRead_fhBr (s : State) (off len : Nat) : (s.afterRead off len).fhBr = s.fhBr := rfl
@[simp] theorem afterRead_fhSr (s : State) (off len : Nat) : (s.afterRead off len).fhSr = s.fhSr := rfl
@[simp] theorem afterRead_fhPad (s : State) (off len : Nat) : (s.afterRead off len).fhPad = s.fhPad := rfl
@[simp] theorem afterRead_flen (s : State) (off len : Nat) : (s.afterRead off len).flen = s.flen := rfl
@[simp] theorem afterRead_mem (s : State) (off len : Nat) : (s.afterRead off len).mem = s.mem := rfl
@[simp] theorem afterRead_port (s : State) (off len : Nat) : (s.afterRead off len).port = s.port.tail := rfl
@[simp] theorem afterRead_host (s : State) (off len : Nat) : (s.afterRead off len).host = s.host := rfl
@[simp] theorem afterRead_reads (s : State) (off len : Nat) : (s.afterRead off len).reads = ⟨off, BitVec.ofNat 4 len⟩ :: s.reads := rfl
@[simp] theorem afterRead_fout (s : State) (off len : Nat) : (s.afterRead off len).fout = s.fout := rfl
@[simp] theorem afterRead_draw (s : State) (off len : Nat) : (s.afterRead off len).draw = s.draw := rfl

/-! ### writeHeader -/

@[simp] theorem writeHeader_phase (s : State) (h : Word) (r : ParseResult) : (s.writeHeader h r).phase = s.phase := by cases r <;> rfl
@[simp] theorem writeHeader_size (s : State) (h : Word) (r : ParseResult) : (s.writeHeader h r).size = s.size := by cases r <;> rfl
@[simp] theorem writeHeader_pos (s : State) (h : Word) (r : ParseResult) : (s.writeHeader h r).pos = s.pos := by cases r <;> rfl
@[simp] theorem writeHeader_cnt (s : State) (h : Word) (r : ParseResult) : (s.writeHeader h r).cnt = s.cnt := by cases r <;> rfl
@[simp] theorem writeHeader_stop (s : State) (h : Word) (r : ParseResult) : (s.writeHeader h r).stop = s.stop := by cases r <;> rfl
@[simp] theorem writeHeader_invCause (s : State) (h : Word) (r : ParseResult) : (s.writeHeader h r).invCause = s.invCause := by cases r <;> rfl
@[simp] theorem writeHeader_hdr (s : State) (h : Word) (r : ParseResult) : (s.writeHeader h r).hdr = h := by cases r <;> rfl
@[simp] theorem writeHeader_mem (s : State) (h : Word) (r : ParseResult) : (s.writeHeader h r).mem = s.mem := by cases r <;> rfl
@[simp] theorem writeHeader_port (s : State) (h : Word) (r : ParseResult) : (s.writeHeader h r).port = s.port := by cases r <;> rfl
@[simp] theorem writeHeader_host (s : State) (h : Word) (r : ParseResult) : (s.writeHeader h r).host = s.host := by cases r <;> rfl
@[simp] theorem writeHeader_reads (s : State) (h : Word) (r : ParseResult) : (s.writeHeader h r).reads = s.reads := by cases r <;> rfl
@[simp] theorem writeHeader_fout (s : State) (h : Word) (r : ParseResult) : (s.writeHeader h r).fout = s.fout := by cases r <;> rfl
@[simp] theorem writeHeader_draw (s : State) (h : Word) (r : ParseResult) : (s.writeHeader h r).draw = s.draw := by cases r <;> rfl

/-! ### scrub -/

@[simp] theorem scrub_phase (s : State) : (s.scrub).phase = s.phase := rfl
@[simp] theorem scrub_size (s : State) : (s.scrub).size = s.size := rfl
@[simp] theorem scrub_pos (s : State) : (s.scrub).pos = s.pos := rfl
@[simp] theorem scrub_cnt (s : State) : (s.scrub).cnt = s.cnt := rfl
@[simp] theorem scrub_stop (s : State) : (s.scrub).stop = s.stop := rfl
@[simp] theorem scrub_invCause (s : State) : (s.scrub).invCause = s.invCause := rfl
@[simp] theorem scrub_hdr (s : State) : (s.scrub).hdr = Config.freeHdr s.draw := rfl
@[simp] theorem scrub_fhValid (s : State) : (s.scrub).fhValid = Config.freeFhValid s.draw := rfl
@[simp] theorem scrub_fhBr (s : State) : (s.scrub).fhBr = Config.freeFhBr s.draw := rfl
@[simp] theorem scrub_fhSr (s : State) : (s.scrub).fhSr = Config.freeFhSr s.draw := rfl
@[simp] theorem scrub_fhPad (s : State) : (s.scrub).fhPad = Config.freeFhPad s.draw := rfl
@[simp] theorem scrub_flen (s : State) : (s.scrub).flen = Config.freeFlen s.draw := rfl
@[simp] theorem scrub_mem (s : State) : (s.scrub).mem = s.mem := rfl
@[simp] theorem scrub_port (s : State) : (s.scrub).port = s.port := rfl
@[simp] theorem scrub_host (s : State) : (s.scrub).host = s.host := rfl
@[simp] theorem scrub_reads (s : State) : (s.scrub).reads = s.reads := rfl
@[simp] theorem scrub_fout (s : State) : (s.scrub).fout = s.fout := rfl
@[simp] theorem scrub_draw (s : State) : (s.scrub).draw = s.draw + 1 := rfl

/-! ### raiseStop -/

@[simp] theorem raiseStop_phase (reason : Stop) (s : State) : (raiseStop reason s).phase = .done := rfl
@[simp] theorem raiseStop_size (reason : Stop) (s : State) : (raiseStop reason s).size = s.size := rfl
@[simp] theorem raiseStop_pos (reason : Stop) (s : State) : (raiseStop reason s).pos = s.pos := rfl
@[simp] theorem raiseStop_cnt (reason : Stop) (s : State) : (raiseStop reason s).cnt = s.cnt := rfl
@[simp] theorem raiseStop_stop (reason : Stop) (s : State) : (raiseStop reason s).stop = reason := rfl
@[simp] theorem raiseStop_invCause (reason : Stop) (s : State) : (raiseStop reason s).invCause = s.invCause := rfl
@[simp] theorem raiseStop_hdr (reason : Stop) (s : State) : (raiseStop reason s).hdr = s.hdr := rfl
@[simp] theorem raiseStop_fhValid (reason : Stop) (s : State) : (raiseStop reason s).fhValid = s.fhValid := rfl
@[simp] theorem raiseStop_fhBr (reason : Stop) (s : State) : (raiseStop reason s).fhBr = s.fhBr := rfl
@[simp] theorem raiseStop_fhSr (reason : Stop) (s : State) : (raiseStop reason s).fhSr = s.fhSr := rfl
@[simp] theorem raiseStop_fhPad (reason : Stop) (s : State) : (raiseStop reason s).fhPad = s.fhPad := rfl
@[simp] theorem raiseStop_flen (reason : Stop) (s : State) : (raiseStop reason s).flen = s.flen := rfl
@[simp] theorem raiseStop_mem (reason : Stop) (s : State) : (raiseStop reason s).mem = s.mem := rfl
@[simp] theorem raiseStop_port (reason : Stop) (s : State) : (raiseStop reason s).port = s.port := rfl
@[simp] theorem raiseStop_host (reason : Stop) (s : State) : (raiseStop reason s).host = s.host := rfl
@[simp] theorem raiseStop_reads (reason : Stop) (s : State) : (raiseStop reason s).reads = s.reads := rfl
@[simp] theorem raiseStop_fout (reason : Stop) (s : State) : (raiseStop reason s).fout = s.fout := rfl
@[simp] theorem raiseStop_draw (reason : Stop) (s : State) : (raiseStop reason s).draw = s.draw := rfl

/-! ### raiseInvalid -/

@[simp] theorem raiseInvalid_phase (c : Cause) (s : State) : (raiseInvalid c s).phase = .done := rfl
@[simp] theorem raiseInvalid_size (c : Cause) (s : State) : (raiseInvalid c s).size = s.size := rfl
@[simp] theorem raiseInvalid_pos (c : Cause) (s : State) : (raiseInvalid c s).pos = s.pos := rfl
@[simp] theorem raiseInvalid_cnt (c : Cause) (s : State) : (raiseInvalid c s).cnt = s.cnt := rfl
@[simp] theorem raiseInvalid_stop (c : Cause) (s : State) : (raiseInvalid c s).stop = .invalidHeader := rfl
@[simp] theorem raiseInvalid_invCause (c : Cause) (s : State) : (raiseInvalid c s).invCause = c := rfl
@[simp] theorem raiseInvalid_hdr (c : Cause) (s : State) : (raiseInvalid c s).hdr = s.hdr := rfl
@[simp] theorem raiseInvalid_fhValid (c : Cause) (s : State) : (raiseInvalid c s).fhValid = s.fhValid := rfl
@[simp] theorem raiseInvalid_fhBr (c : Cause) (s : State) : (raiseInvalid c s).fhBr = s.fhBr := rfl
@[simp] theorem raiseInvalid_fhSr (c : Cause) (s : State) : (raiseInvalid c s).fhSr = s.fhSr := rfl
@[simp] theorem raiseInvalid_fhPad (c : Cause) (s : State) : (raiseInvalid c s).fhPad = s.fhPad := rfl
@[simp] theorem raiseInvalid_flen (c : Cause) (s : State) : (raiseInvalid c s).flen = s.flen := rfl
@[simp] theorem raiseInvalid_mem (c : Cause) (s : State) : (raiseInvalid c s).mem = s.mem := rfl
@[simp] theorem raiseInvalid_port (c : Cause) (s : State) : (raiseInvalid c s).port = s.port := rfl
@[simp] theorem raiseInvalid_host (c : Cause) (s : State) : (raiseInvalid c s).host = s.host := rfl
@[simp] theorem raiseInvalid_reads (c : Cause) (s : State) : (raiseInvalid c s).reads = s.reads := rfl
@[simp] theorem raiseInvalid_fout (c : Cause) (s : State) : (raiseInvalid c s).fout = s.fout := rfl
@[simp] theorem raiseInvalid_draw (c : Cause) (s : State) : (raiseInvalid c s).draw = s.draw := rfl

/-! ### raiseFault -/

@[simp] theorem raiseFault_phase (s : State) : (raiseFault s).phase = .fault := rfl
@[simp] theorem raiseFault_size (s : State) : (raiseFault s).size = s.size := rfl
@[simp] theorem raiseFault_pos (s : State) : (raiseFault s).pos = s.pos := rfl
@[simp] theorem raiseFault_cnt (s : State) : (raiseFault s).cnt = s.cnt := rfl
@[simp] theorem raiseFault_stop (s : State) : (raiseFault s).stop = .ioError := rfl
@[simp] theorem raiseFault_invCause (s : State) : (raiseFault s).invCause = s.invCause := rfl
@[simp] theorem raiseFault_hdr (s : State) : (raiseFault s).hdr = s.hdr := rfl
@[simp] theorem raiseFault_fhValid (s : State) : (raiseFault s).fhValid = s.fhValid := rfl
@[simp] theorem raiseFault_fhBr (s : State) : (raiseFault s).fhBr = s.fhBr := rfl
@[simp] theorem raiseFault_fhSr (s : State) : (raiseFault s).fhSr = s.fhSr := rfl
@[simp] theorem raiseFault_fhPad (s : State) : (raiseFault s).fhPad = s.fhPad := rfl
@[simp] theorem raiseFault_flen (s : State) : (raiseFault s).flen = s.flen := rfl
@[simp] theorem raiseFault_mem (s : State) : (raiseFault s).mem = s.mem := rfl
@[simp] theorem raiseFault_port (s : State) : (raiseFault s).port = s.port := rfl
@[simp] theorem raiseFault_host (s : State) : (raiseFault s).host = s.host := rfl
@[simp] theorem raiseFault_reads (s : State) : (raiseFault s).reads = s.reads := rfl
@[simp] theorem raiseFault_fout (s : State) : (raiseFault s).fout = s.fout := rfl
@[simp] theorem raiseFault_draw (s : State) : (raiseFault s).draw = s.draw := rfl

/-! ### hardwareReset -/

@[simp] theorem hardwareReset_phase (s : State) : (hardwareReset s).phase = .idle := rfl
@[simp] theorem hardwareReset_size (s : State) : (hardwareReset s).size = Config.freeSize s.draw := rfl
@[simp] theorem hardwareReset_pos (s : State) : (hardwareReset s).pos = Config.freePos s.draw := rfl
@[simp] theorem hardwareReset_cnt (s : State) : (hardwareReset s).cnt = Config.freeCnt s.draw := rfl
@[simp] theorem hardwareReset_stop (s : State) : (hardwareReset s).stop = .none := rfl
@[simp] theorem hardwareReset_invCause (s : State) : (hardwareReset s).invCause = .none := rfl
@[simp] theorem hardwareReset_hdr (s : State) : (hardwareReset s).hdr = Config.freeHdr s.draw := rfl
@[simp] theorem hardwareReset_fhValid (s : State) : (hardwareReset s).fhValid = Config.freeFhValid s.draw := rfl
@[simp] theorem hardwareReset_fhBr (s : State) : (hardwareReset s).fhBr = Config.freeFhBr s.draw := rfl
@[simp] theorem hardwareReset_fhSr (s : State) : (hardwareReset s).fhSr = Config.freeFhSr s.draw := rfl
@[simp] theorem hardwareReset_fhPad (s : State) : (hardwareReset s).fhPad = Config.freeFhPad s.draw := rfl
@[simp] theorem hardwareReset_flen (s : State) : (hardwareReset s).flen = Config.freeFlen s.draw := rfl
@[simp] theorem hardwareReset_mem (s : State) : (hardwareReset s).mem = s.mem := rfl
@[simp] theorem hardwareReset_port (s : State) : (hardwareReset s).port = s.port := rfl
@[simp] theorem hardwareReset_host (s : State) : (hardwareReset s).host = s.host := rfl
@[simp] theorem hardwareReset_reads (s : State) : (hardwareReset s).reads = s.reads := rfl
@[simp] theorem hardwareReset_fout (s : State) : (hardwareReset s).fout = s.fout := rfl
@[simp] theorem hardwareReset_draw (s : State) : (hardwareReset s).draw = s.draw + 1 := rfl

/-! ### enterWalk -/

@[simp] theorem enterWalk_phase (pos : Nat) (s : State) : (enterWalk pos s).phase = .walk := rfl
@[simp] theorem enterWalk_size (pos : Nat) (s : State) : (enterWalk pos s).size = s.size := rfl
@[simp] theorem enterWalk_pos (pos : Nat) (s : State) : (enterWalk pos s).pos = pos := rfl
@[simp] theorem enterWalk_cnt (pos : Nat) (s : State) : (enterWalk pos s).cnt = s.cnt := rfl
@[simp] theorem enterWalk_stop (pos : Nat) (s : State) : (enterWalk pos s).stop = s.stop := rfl
@[simp] theorem enterWalk_invCause (pos : Nat) (s : State) : (enterWalk pos s).invCause = s.invCause := rfl
@[simp] theorem enterWalk_hdr (pos : Nat) (s : State) : (enterWalk pos s).hdr = s.hdr := rfl
@[simp] theorem enterWalk_fhValid (pos : Nat) (s : State) : (enterWalk pos s).fhValid = s.fhValid := rfl
@[simp] theorem enterWalk_fhBr (pos : Nat) (s : State) : (enterWalk pos s).fhBr = s.fhBr := rfl
@[simp] theorem enterWalk_fhSr (pos : Nat) (s : State) : (enterWalk pos s).fhSr = s.fhSr := rfl
@[simp] theorem enterWalk_fhPad (pos : Nat) (s : State) : (enterWalk pos s).fhPad = s.fhPad := rfl
@[simp] theorem enterWalk_flen (pos : Nat) (s : State) : (enterWalk pos s).flen = s.flen := rfl
@[simp] theorem enterWalk_mem (pos : Nat) (s : State) : (enterWalk pos s).mem = s.mem := rfl
@[simp] theorem enterWalk_port (pos : Nat) (s : State) : (enterWalk pos s).port = s.port := rfl
@[simp] theorem enterWalk_host (pos : Nat) (s : State) : (enterWalk pos s).host = s.host := rfl
@[simp] theorem enterWalk_reads (pos : Nat) (s : State) : (enterWalk pos s).reads = s.reads := rfl
@[simp] theorem enterWalk_fout (pos : Nat) (s : State) : (enterWalk pos s).fout = s.fout := rfl
@[simp] theorem enterWalk_draw (pos : Nat) (s : State) : (enterWalk pos s).draw = s.draw := rfl

/-! ### The fields writeHeader writes -/

@[simp] theorem writeHeader_valid_fields (s : State) (h : Word) (f : FrameHeader) :
    (s.writeHeader h (.valid f)).fhValid = true ∧ (s.writeHeader h (.valid f)).fhBr = BitVec.ofNat 9 f.kbps ∧
      (s.writeHeader h (.valid f)).fhSr = BitVec.ofNat 16 f.hz ∧ (s.writeHeader h (.valid f)).fhPad = f.padding ∧
      (s.writeHeader h (.valid f)).flen = BitVec.ofNat 11 (headerLength f) := ⟨rfl, rfl, rfl, rfl, rfl⟩

@[simp] theorem writeHeader_invalid_fields (s : State) (h : Word) (c : Cause) :
    (s.writeHeader h (.invalid c)).fhValid = false ∧ (s.writeHeader h (.invalid c)).fhBr = s.fhBr ∧
      (s.writeHeader h (.invalid c)).fhSr = s.fhSr ∧ (s.writeHeader h (.invalid c)).fhPad = s.fhPad ∧
      (s.writeHeader h (.invalid c)).flen = s.flen := ⟨rfl, rfl, rfl, rfl, rfl⟩

/-- Reading and writing the transient registers touch different fields. -/
theorem writeHeader_afterRead (s : State) (h : Word) (r : ParseResult) (off len : Nat) :
    (s.writeHeader h r).afterRead off len = (s.afterRead off len).writeHeader h r := by
  cases r <;> rfl

@[simp] theorem afterRead_rem (s : State) (off len : Nat) : (s.afterRead off len).rem = s.rem := rfl
@[simp] theorem writeHeader_rem (s : State) (h : Word) (r : ParseResult) : (s.writeHeader h r).rem = s.rem := by
  cases r <;> rfl
@[simp] theorem scrub_rem (s : State) : s.scrub.rem = s.rem := rfl

end Sys2Proof.Machine
end

