-- ==== Sys2Proof/Laws/Read.lean ====
section
/-! SUPPORT. Everything a read through the port can do: served, failed, never answered, or outside the source. -/

namespace Sys2Proof.Machine

open Host

/-! ### The lanes -/

@[simp] theorem dataLanes_length (s : State) (bs : List Byte) : (dataLanes s bs).length = 10 := by simp [dataLanes]

/-- The lanes below `rd_n` hold the bytes read. -/
theorem dataLanes_take (s : State) (bs : List Byte) (n : Nat) (h10 : n ≤ 10) (h : n ≤ bs.length) :
    (dataLanes s bs).take n = bs.take n := by
  apply List.ext_getElem?
  intro i
  rw [List.getElem?_take, List.getElem?_take]
  split
  · rename_i hi
    have hb : i < bs.length := by omega
    simp [dataLanes, List.getElem?_map, List.getElem?_range (show i < 10 by omega), List.getElem?_eq_getElem hb]
  · rfl

theorem extract_above {n : Nat} (x : BitVec n) (y : Byte) (k : Nat) (h : 8 ≤ k) :
    (x ++ y).extractLsb' k 8 = x.extractLsb' (k - 8) 8 := by
  apply BitVec.eq_of_getLsbD_eq
  intro j hj
  rw [BitVec.getLsbD_extractLsb', BitVec.getLsbD_extractLsb', BitVec.getLsbD_append, if_neg (by omega),
    show k + j - 8 = k - 8 + j by omega]

theorem extract_lowest {n : Nat} (x : BitVec n) (y : Byte) : (x ++ y).extractLsb' 0 8 = y := by
  apply BitVec.eq_of_getLsbD_eq
  intro j hj
  rw [BitVec.getLsbD_extractLsb', BitVec.getLsbD_append, if_pos (by omega), Nat.zero_add]
  simp [hj]

/-- Lane `i` of `rd_data` stands in its bits 8i+7 : 8i (R55). -/
theorem data_lane (a : ReadAnswer) (i : Nat) (hi : i < 10) : a.data.extractLsb' (8 * i) 8 = a.lane i := by
  rw [ReadAnswer.data]
  interval_cases i <;>
    simp (disch := decide) only [Nat.reduceMul, Nat.reduceSub, extract_above, extract_lowest, BitVec.extractLsb'_eq_self]

/-- The first lanes as a list are the lanes of `rd_data`. -/
theorem take_lanes (a : ReadAnswer) (len : Nat) (h : len ≤ 10) (hl : a.lanes.length = 10) :
    a.lanes.take len = (List.range len).map fun i => a.data.extractLsb' (8 * i) 8 := by
  apply List.ext_getElem
  · simp [hl, h]
  · intro i h1 h2
    have hi : i < len := by simpa using h2
    rw [List.getElem_take, List.getElem_map, List.getElem_range, data_lane a i (by omega), ReadAnswer.lane,
      List.getD_eq_getElem _ _ (by omega)]

/-- `rd_n` holds the number of bytes of any list the block can be answered with. -/
theorem dataAnswer_n (s : State) (bs : List Byte) (h : bs.length ≤ 10) : (dataAnswer s bs).n.toNat = bs.length := by
  rw [dataAnswer, BitVec.toNat_ofNat]
  exact Nat.mod_eq_of_lt (by omega)

/-! ### memRead -/

theorem memRead_inside (off len : Nat) (s : State) (h : off + len ≤ s.size) :
    memRead off len s =
      match portAnswer s off len with
      | none => .silent
      | some a =>
        if a.err || decide (a.n.toNat < len) then .ioFail (s.afterRead off len)
        else .ok (a.lanes.take len) (s.afterRead off len) := by
  rw [memRead, if_pos h] <;> rfl

/-- A read past SIZE has no meaning (R60). -/
theorem memRead_outside (off len : Nat) (s : State) (h : s.size < off + len) : memRead off len s = .outside := by
  simp only [memRead, if_neg (Nat.not_le.2 h)]

/-- A served read gives its bytes. -/
theorem memRead_served (off len : Nat) (bytes : Nat → Byte) (s : State) (h : off + len ≤ s.size) (h10 : len ≤ 10)
    (hs : ReadServed s off len bytes) :
    memRead off len s = .ok ((List.range len).map bytes) (s.afterRead off len) := by
  obtain ⟨hp, hb⟩ := hs
  have hr : s.mem.readAt off len = (List.range len).map bytes := readAt_full s.mem off len bytes hb
  have ha : portAnswer s off len = some (dataAnswer s ((List.range len).map bytes)) := by
    cases hh : s.port.head?.getD .serve with
    | serve => simp [portAnswer, hh, hr]
    | error => simp [hh, answersInFull] at hp
    | silent => simp [hh, answersInFull] at hp
    | short n =>
      have hn : len ≤ n := by simpa [hh, answersInFull] using hp
      have ht : ((List.range len).map bytes).take n = (List.range len).map bytes := List.take_of_length_le (by simpa using hn)
      simp only [portAnswer, hh, hr, ht]
  rw [memRead_inside off len s h, ha]
  dsimp only
  rw [dataAnswer_n _ _ (by simpa using h10), if_neg (by simp [dataAnswer])]
  rw [dataAnswer, dataLanes_take s _ len h10 (by simp), List.take_of_length_le (by simp)]

/-- A failed read (R66). -/
theorem memRead_fails (off len : Nat) (s : State) (h : off + len ≤ s.size) (h10 : len ≤ 10) (hf : ReadFails s off len) :
    memRead off len s = .ioFail (s.afterRead off len) := by
  have short : ∀ bs : List Byte, bs.length < len →
      ((dataAnswer s bs).err || decide ((dataAnswer s bs).n.toNat < len)) = true := by
    intro bs hb
    rw [dataAnswer_n s bs (by omega)]
    simp [hb]
  rw [memRead_inside off len s h]
  rcases hf with hf | ⟨n, hn, hf⟩ | ⟨hne, k, hk, hm⟩
  · simp [portAnswer, hf]
  · simp only [portAnswer, hf, Option.getD_some]
    rw [if_pos (short _ (by rw [List.length_take]; omega))]
  · have hl : (s.mem.readAt off len).length < len := readAt_short s.mem off len k hk hm
    cases hh : s.port.head? with
    | none =>
      simp only [portAnswer, hh, Option.getD_none]
      rw [if_pos (short _ hl)]
    | some a =>
      cases a with
      | serve =>
        simp only [portAnswer, hh, Option.getD_some]
        rw [if_pos (short _ hl)]
      | error => simp [portAnswer, hh]
      | short n =>
        simp only [portAnswer, hh, Option.getD_some]
        rw [if_pos (short _ (by rw [List.length_take]; omega))]
      | silent => exact absurd hh hne

/-- A read that is never answered (R236). -/
theorem memRead_silent (off len : Nat) (s : State) (h : off + len ≤ s.size) (hs : ReadSilent s) :
    memRead off len s = .silent := by
  rw [memRead_inside off len s h]
  have hs' : s.port.head? = some .silent := hs
  simp [portAnswer, hs']

/-- The four things a read can do. -/
theorem memRead_cases (off len : Nat) (s : State) :
    (memRead off len s = .outside ∧ s.size < off + len) ∨
      (memRead off len s = .silent ∧ ReadSilent s ∧ off + len ≤ s.size) ∨
      (memRead off len s = .ioFail (s.afterRead off len) ∧ off + len ≤ s.size) ∨
      (∃ bs, memRead off len s = .ok bs (s.afterRead off len) ∧ off + len ≤ s.size) := by
  by_cases h : off + len ≤ s.size
  · right
    rw [memRead_inside off len s h]
    cases hp : portAnswer s off len with
    | none =>
      left
      refine ⟨rfl, ?_, h⟩
      unfold ReadSilent
      cases hh : s.port.head? with
      | none => simp [portAnswer, hh] at hp
      | some a => cases a <;> simp_all [portAnswer]
    | some a =>
      right
      by_cases hc : (a.err || decide (a.n.toNat < len)) = true
      · left
        exact ⟨by simp only [hc, if_true], h⟩
      · right
        exact ⟨_, by simp only [hc]; rfl, h⟩
  · left
    exact ⟨memRead_outside off len s (by omega), by omega⟩

/-- The same read over a source that agrees on the bytes read. -/
theorem memRead_congr (off len : Nat) (s : State) (m : Memory)
    (h : ∀ k, k < len → m.read (off + k) = s.mem.read (off + k)) :
    memRead off len (s.withSource m) =
      match memRead off len s with
      | .ok bs t => .ok bs (t.withSource m)
      | .ioFail t => .ioFail (t.withSource m)
      | .silent => .silent
      | .outside => .outside := by
  have hr : m.readAt off len = s.mem.readAt off len := readAt_congr _ _ _ _ h
  have ha : portAnswer (s.withSource m) off len = portAnswer s off len := by
    simp only [portAnswer, State.withSource, hr, dataAnswer, dataLanes]
  by_cases hin : off + len ≤ s.size
  · rw [memRead_inside off len s hin, memRead_inside off len (s.withSource m) hin, ha]
    cases portAnswer s off len with
    | none => rfl
    | some a =>
      dsimp only
      split <;> rfl
  · rw [memRead_outside off len s (by omega), memRead_outside off len (s.withSource m) (by simpa [State.withSource] using hin)]

/-! ### memRead32 -/

theorem memRead32_eq (off : Nat) (s : State) :
    memRead32 off s =
      (memRead off 4 s).andThen fun bs s1 =>
        match bs with
        | [b0, b1, b2, b3] => .ok (be32 b0 b1 b2 b3) s1
        | _ => .ioFail s1 := rfl

/-- A served word, big-endian (R56). -/
theorem memRead32_served (off : Nat) (bytes : Nat → Byte) (s : State) (h : off + 4 ≤ s.size)
    (hs : ReadServed s off 4 bytes) : memRead32 off s = .ok (wordOf bytes) (s.afterRead off 4) := by
  rw [memRead32_eq, memRead_served off 4 bytes s h (by omega) hs]
  rfl

theorem memRead32_fails (off : Nat) (s : State) (h : off + 4 ≤ s.size) (hf : ReadFails s off 4) :
    memRead32 off s = .ioFail (s.afterRead off 4) := by
  rw [memRead32_eq, memRead_fails off 4 s h (by omega) hf]
  rfl

theorem memRead32_silent (off : Nat) (s : State) (h : off + 4 ≤ s.size) (hs : ReadSilent s) :
    memRead32 off s = .silent := by
  rw [memRead32_eq, memRead_silent off 4 s h hs]
  rfl

theorem memRead32_cases (off : Nat) (s : State) :
    (memRead32 off s = .outside ∧ s.size < off + 4) ∨
      (memRead32 off s = .silent ∧ ReadSilent s ∧ off + 4 ≤ s.size) ∨
      (memRead32 off s = .ioFail (s.afterRead off 4) ∧ off + 4 ≤ s.size) ∨
      (∃ h, memRead32 off s = .ok h (s.afterRead off 4) ∧ off + 4 ≤ s.size) := by
  rw [memRead32_eq]
  rcases memRead_cases off 4 s with ⟨h, h1⟩ | ⟨h, h1, h2⟩ | ⟨h, h1⟩ | ⟨bs, h, h1⟩
  · exact .inl ⟨by rw [h]; rfl, h1⟩
  · exact .inr (.inl ⟨by rw [h]; rfl, h1, h2⟩)
  · exact .inr (.inr (.inl ⟨by rw [h]; rfl, h1⟩))
  · rw [h]
    simp only [Res.andThen]
    split
    · exact .inr (.inr (.inr ⟨_, rfl, h1⟩))
    · exact .inr (.inr (.inl ⟨rfl, h1⟩))

theorem memRead32_congr (off : Nat) (s : State) (m : Memory)
    (h : ∀ k, k < 4 → m.read (off + k) = s.mem.read (off + k)) :
    memRead32 off (s.withSource m) =
      match memRead32 off s with
      | .ok w t => .ok w (t.withSource m)
      | .ioFail t => .ioFail (t.withSource m)
      | .silent => .silent
      | .outside => .outside := by
  rw [memRead32_eq, memRead32_eq, memRead_congr off 4 s m h]
  cases memRead off 4 s with
  | ok bs t =>
    simp only [Res.andThen]
    split <;> split <;> simp_all
  | ioFail t => rfl
  | silent => rfl
  | outside => rfl

/-- A read of at most ten bytes gives as many as it asked for. -/
theorem memRead_length (off len : Nat) (s t : State) (bs : List Byte) (h10 : len ≤ 10)
    (h : memRead off len s = .ok bs t) : bs.length = len := by
  by_cases hin : off + len ≤ s.size
  · rw [memRead_inside off len s hin] at h
    have lanes : ∀ a, portAnswer s off len = some a → a.lanes.length = 10 := by
      intro a ha
      rw [portAnswer] at ha
      split at ha <;> first | (cases ha; done) | (obtain rfl := Option.some.inj ha; exact dataLanes_length _ _)
    cases ha : portAnswer s off len with
    | none => rw [ha] at h; cases h
    | some a =>
      rw [ha] at h
      dsimp only at h
      split at h
      · cases h
      · cases h
        rw [List.length_take, lanes a ha]
        omega
  · rw [memRead_outside off len s (by omega)] at h
    cases h

/-- A read does not see the transient registers. -/
theorem memRead_writeHeader (off len : Nat) (s : State) (h : Word) (r : ParseResult) :
    memRead off len (s.writeHeader h r) =
      match memRead off len s with
      | .ok bs t => .ok bs (t.writeHeader h r)
      | .ioFail t => .ioFail (t.writeHeader h r)
      | .silent => .silent
      | .outside => .outside := by
  have ha : portAnswer (s.writeHeader h r) off len = portAnswer s off len := by cases r <;> rfl
  have hw : (s.writeHeader h r).afterRead off len = (s.afterRead off len).writeHeader h r := by cases r <;> rfl
  by_cases hin : off + len ≤ s.size
  · rw [memRead_inside off len s hin, memRead_inside off len (s.writeHeader h r) (by rw [writeHeader_size]; exact hin), ha,
      hw]
    cases portAnswer s off len with
    | none => rfl
    | some a =>
      dsimp only
      split <;> rfl
  · rw [memRead_outside off len s (by omega),
      memRead_outside off len (s.writeHeader h r) (by rw [writeHeader_size]; omega)]

theorem memRead32_writeHeader (off : Nat) (s : State) (h : Word) (r : ParseResult) :
    memRead32 off (s.writeHeader h r) =
      match memRead32 off s with
      | .ok w t => .ok w (t.writeHeader h r)
      | .ioFail t => .ioFail (t.writeHeader h r)
      | .silent => .silent
      | .outside => .outside := by
  rw [memRead32_eq, memRead32_eq, memRead_writeHeader off 4 s h r]
  cases memRead off 4 s with
  | ok bs t =>
    simp only [Res.andThen]
    split <;> split <;> simp_all
  | ioFail t => rfl
  | silent => rfl
  | outside => rfl

/-! ### Where the premises of a served read come from -/

theorem readServed_of_source (s : State) (src : Nat → Byte) (size off len : Nat) (hp : PortServes s)
    (hs : SourceIs s src size) (h : off + len ≤ size) : ReadServed s off len fun k => src (off + k) := by
  refine ⟨?_, fun k hk => hs (off + k) (by omega)⟩
  cases hh : s.port with
  | nil => rfl
  | cons a l =>
    rw [hp a (by simp [hh])]
    rfl

/-- Every read is served, fails or is never answered. -/
theorem read_trichotomy (s : State) (off len : Nat) :
    (∃ bytes, ReadServed s off len bytes) ∨ ReadFails s off len ∨ ReadSilent s := by
  cases hfull : answersInFull (s.port.head?.getD .serve) len with
  | true =>
    by_cases h : ∀ k, k < len → (s.mem.read (off + k)).isSome = true
    · refine .inl ⟨fun k => (s.mem.read (off + k)).getD 0#8, hfull, fun k hk => ?_⟩
      obtain ⟨b, hb⟩ := Option.isSome_iff_exists.1 (h k hk)
      simp [hb]
    · refine .inr (.inl (.inr (.inr ⟨fun hs => by simp [hs, answersInFull] at hfull, ?_⟩)))
      push Not at h
      obtain ⟨k, hk, hn⟩ := h
      exact ⟨k, hk, by simpa using hn⟩
  | false =>
    cases hh : s.port.head? with
    | none => simp [hh, answersInFull] at hfull
    | some a =>
      cases a with
      | serve => simp [hh, answersInFull] at hfull
      | error => exact .inr (.inl (.inl hh))
      | silent => exact .inr (.inr hh)
      | short n => exact .inr (.inl (.inr (.inl ⟨n, by simpa [hh, answersInFull] using hfull, hh⟩)))

@[simp] theorem portServes_afterRead (s : State) (off len : Nat) (h : PortServes s) :
    PortServes (s.afterRead off len) := fun a ha => h a (List.mem_of_mem_tail ha)

@[simp] theorem portAnswers_afterRead (s : State) (off len : Nat) (h : PortAnswers s) :
    PortAnswers (s.afterRead off len) := fun a ha => h a (List.mem_of_mem_tail ha)

theorem not_readSilent (s : State) (h : PortAnswers s) : ¬ReadSilent s := by
  intro hs
  have hs' : s.port.head? = some .silent := hs
  cases hp : s.port with
  | nil => simp [hp] at hs'
  | cons a l =>
    have : a = .silent := by simpa [hp] using hs'
    exact h a (by simp [hp]) this

end Sys2Proof.Machine
end

