-- ==== Sys2Proof/Laws/Skips.lean ====
section
/-! SUPPORT. Everything the two skippers and a Walker iteration can do, said once. -/

namespace Sys2Proof.Machine

open Host

/-! ### Going on after a part of a step -/

theorem ok_andThen {α β : Type} (a : α) (s : State) (k : α → State → Res β) : (Res.ok a s).andThen k = k a s := rfl

theorem ioFail_andThen {α β : Type} (s : State) (k : α → State → Res β) :
    (Res.ioFail s : Res α).andThen k = .ioFail s := rfl

theorem silent_andThen {α β : Type} (k : α → State → Res β) : (Res.silent : Res α).andThen k = .silent := rfl

theorem finish_ok {α : Type} (a : α) (s : State) (k : α → State → State) : (Res.ok a s).finish k = .next (k a s) := rfl

theorem finish_ioFail {α : Type} (s : State) (k : α → State → State) :
    (Res.ioFail s : Res α).finish k = .next (raiseFault s) := rfl

theorem finish_silent {α : Type} (k : α → State → State) :
    (Res.silent : Res α).finish k = .fault .readNeverAnswered := rfl

/-! ### TAGSKIP -/

theorem tagSkip_near (pos : Nat) (s : State) (h : s.size - pos < 10) : tagSkip pos s = .ok pos s := by
  rw [tagSkip, if_pos (show s.size - pos < Config.tagHdrLen from h)]

theorem tagSkip_far (pos : Nat) (s : State) (h : 10 ≤ s.size - pos) :
    tagSkip pos s =
      (memRead pos 10 s).andThen fun bs s1 =>
        match bs with
        | [t0, t1, t2, _, _, _, t6, t7, t8, t9] =>
          if t0 = Config.tagId0 ∧ t1 = Config.tagId1 ∧ t2 = Config.tagId2 then
            .ok (tagEnd pos (synchsafe t6 t7 t8 t9) s.size) s1
          else .ok pos s1
        | _ => .ioFail s1 := by
  rw [tagSkip, if_neg (show ¬s.size - pos < Config.tagHdrLen from Nat.not_lt.2 h)]
  rfl

theorem tagSkip_served (pos : Nat) (t : Nat → Byte) (s : State) (h : 10 ≤ s.size - pos) (hs : ReadServed s pos 10 t) :
    tagSkip pos s =
      .ok (if t 0 = Config.tagId0 ∧ t 1 = Config.tagId1 ∧ t 2 = Config.tagId2 then
        tagEnd pos (synchsafe (t 6) (t 7) (t 8) (t 9)) s.size else pos) (s.afterRead pos 10) := by
  rw [tagSkip_far pos s h, memRead_served pos 10 t s (by omega) (by omega) hs]
  show (if t 0 = Config.tagId0 ∧ t 1 = Config.tagId1 ∧ t 2 = Config.tagId2 then _ else _) = _
  split <;> rfl

theorem tagSkip_fails (pos : Nat) (s : State) (h : 10 ≤ s.size - pos) (hf : ReadFails s pos 10) :
    tagSkip pos s = .ioFail (s.afterRead pos 10) := by
  rw [tagSkip_far pos s h, memRead_fails pos 10 s (by omega) (by omega) hf]
  rfl

theorem tagSkip_silent (pos : Nat) (s : State) (h : 10 ≤ s.size - pos) (hs : ReadSilent s) :
    tagSkip pos s = .silent := by
  rw [tagSkip_far pos s h, memRead_silent pos 10 s (by omega) hs]
  rfl

/-- The position of a tag's end lies behind the tag's header and inside the source. -/
theorem tagEnd_range (pos n size : Nat) (h : 10 ≤ size - pos) : pos + 10 ≤ tagEnd pos n size ∧ tagEnd pos n size ≤ size := by
  simp only [tagEnd, Config.tagHdrLen]
  omega

/-- The four things TAGSKIP can do. -/
theorem tagSkip_cases (pos : Nat) (s : State) :
    (tagSkip pos s = .ok pos s ∧ s.size - pos < 10) ∨ (tagSkip pos s = .silent ∧ ReadSilent s ∧ 10 ≤ s.size - pos) ∨
      (tagSkip pos s = .ioFail (s.afterRead pos 10) ∧ 10 ≤ s.size - pos) ∨
      (∃ p, tagSkip pos s = .ok p (s.afterRead pos 10) ∧ 10 ≤ s.size - pos ∧ pos ≤ p ∧ p ≤ s.size) := by
  by_cases h : s.size - pos < 10
  · exact .inl ⟨tagSkip_near pos s h, h⟩
  · have h' : 10 ≤ s.size - pos := by omega
    right
    rw [tagSkip_far pos s h']
    rcases memRead_cases pos 10 s with ⟨e, e1⟩ | ⟨e, e1, -⟩ | ⟨e, -⟩ | ⟨bs, e, -⟩
    · omega
    · exact .inl ⟨by rw [e]; rfl, e1, h'⟩
    · exact .inr (.inl ⟨by rw [e]; rfl, h'⟩)
    · rw [e]
      simp only [Res.andThen]
      split
      · rename_i t0 t1 t2 _ _ _ t6 t7 t8 t9
        split
        · obtain ⟨h1, h2⟩ := tagEnd_range pos (synchsafe t6 t7 t8 t9) s.size h'
          exact .inr (.inr ⟨_, rfl, h', by omega, h2⟩)
        · exact .inr (.inr ⟨_, rfl, h', le_refl _, by omega⟩)
      · exact .inr (.inl ⟨rfl, h'⟩)

/-! ### METASKIP -/

theorem metaSkip_near (pos : Nat) (s : State) (h : s.size - pos < 44) : metaSkip pos s = .ok pos s := by
  rw [metaSkip, if_pos (show s.size - pos < Config.metaMin from h)]

theorem metaSkip_far (pos : Nat) (s : State) (h : 44 ≤ s.size - pos) :
    metaSkip pos s = (memRead32 pos s).andThen (metaSkipRest pos) := by
  rw [metaSkip, if_neg (show ¬s.size - pos < Config.metaMin from Nat.not_lt.2 h)]

theorem metaSkip_fails (pos : Nat) (s : State) (h : 44 ≤ s.size - pos) (hf : ReadFails s pos 4) :
    metaSkip pos s = .ioFail (s.afterRead pos 4) := by
  rw [metaSkip_far pos s h, memRead32_fails pos s (by omega) hf, ioFail_andThen]

theorem metaSkip_silent (pos : Nat) (s : State) (h : 44 ≤ s.size - pos) (hs : ReadSilent s) :
    metaSkip pos s = .silent := by
  rw [metaSkip_far pos s h, memRead32_silent pos s (by omega) hs, silent_andThen]

theorem metaSkip_served (pos : Nat) (b : Nat → Byte) (s : State) (h : 44 ≤ s.size - pos) (hs : ReadServed s pos 4 b) :
    metaSkip pos s = metaSkipRest pos (wordOf b) (s.afterRead pos 4) := by
  rw [metaSkip_far pos s h, memRead32_served pos b s (by omega) hs, ok_andThen]

/-- The things METASKIP can do: nothing to read; the header's read fails or is never answered; an invalid header; a frame
that does not fit; the marker's read fails or is never answered; a frame that fits, with a marker or without. -/
theorem metaSkip_cases (pos : Nat) (s : State) :
    (metaSkip pos s = .ok pos s ∧ s.size - pos < 44) ∨
      (44 ≤ s.size - pos ∧
        ((metaSkip pos s = .silent) ∨ (metaSkip pos s = .ioFail (s.afterRead pos 4)) ∨
          (∃ h c, parse h = .invalid c ∧ memRead32 pos s = .ok h (s.afterRead pos 4) ∧
            metaSkip pos s = .ok pos ((s.afterRead pos 4).writeHeader h (.invalid c))) ∨
          (∃ h f, parse h = .valid f ∧ memRead32 pos s = .ok h (s.afterRead pos 4) ∧
            fits (headerLength f) (s.size - pos) = false ∧
            metaSkip pos s = .ok pos ((s.afterRead pos 4).writeHeader h (.valid f))) ∨
          (∃ h f, parse h = .valid f ∧ memRead32 pos s = .ok h (s.afterRead pos 4) ∧
            fits (headerLength f) (s.size - pos) = true ∧
            (metaSkip pos s = .ioFail (((s.afterRead pos 4).writeHeader h (.valid f)).afterRead (pos + 36) 4) ∨
              ∃ m, metaSkip pos s = .ok (if isMarker m then pos + headerLength f else pos)
                (((s.afterRead pos 4).writeHeader h (.valid f)).afterRead (pos + 36) 4))))) := by
  by_cases hn : s.size - pos < 44
  · exact .inl ⟨metaSkip_near pos s hn, hn⟩
  · have hf : 44 ≤ s.size - pos := by omega
    refine .inr ⟨hf, ?_⟩
    rw [metaSkip_far pos s hf]
    rcases memRead32_cases pos s with ⟨e, e1⟩ | ⟨e, -, -⟩ | ⟨e, -⟩ | ⟨h, e, -⟩
    · omega
    · exact .inl (by rw [e, silent_andThen])
    · exact .inr (.inl (by rw [e, ioFail_andThen]))
    · rw [e, ok_andThen, metaSkipRest, afterRead_size, metaOffset_eq]
      cases hp : parse h with
      | invalid c => exact .inr (.inr (.inl ⟨h, c, hp, rfl, rfl⟩))
      | valid f =>
        dsimp only
        by_cases hfit : fits (headerLength f) (s.size - pos) = true
        · rw [if_pos hfit]
          rcases memRead32_cases (pos + 36) ((s.afterRead pos 4).writeHeader h (.valid f)) with
            ⟨-, e3⟩ | ⟨e2, -, -⟩ | ⟨e2, -⟩ | ⟨m, e2, -⟩
          · rw [writeHeader_size, afterRead_size] at e3
            omega
          · exact .inl (by rw [e2, silent_andThen])
          · exact .inr (.inr (.inr (.inr ⟨h, f, hp, rfl, hfit, .inl (by rw [e2, ioFail_andThen])⟩)))
          · exact .inr (.inr (.inr (.inr ⟨h, f, hp, rfl, hfit, .inr ⟨m, by rw [e2, ok_andThen]⟩⟩)))
        · rw [if_neg hfit]
          exact .inr (.inr (.inr (.inl ⟨h, f, hp, rfl, by simpa using hfit, rfl⟩)))

/-! ### A Walker iteration -/

theorem fits_iff (len rem : Nat) : fits len rem = true ↔ 0 < len ∧ len ≤ rem := by simp [fits]

/-- The three things a parsed word does to a Walker iteration (R166 to R168). -/
theorem walkVerdict_cases (r : ParseResult) (h : Word) (s : State) :
    (∃ c, r = .invalid c ∧ walkVerdict r h s = raiseInvalid c (s.writeHeader h r)) ∨
      (∃ f, r = .valid f ∧ fits (headerLength f) s.rem = false ∧
        walkVerdict r h s = raiseStop .truncatedFrame (s.writeHeader h r)) ∨
      (∃ f, r = .valid f ∧ fits (headerLength f) s.rem = true ∧
        walkVerdict r h s = { s.writeHeader h r with cnt := s.cnt + 1, pos := s.pos + headerLength f }) := by
  cases r with
  | invalid c => exact .inl ⟨c, rfl, rfl⟩
  | valid f =>
    by_cases hf : fits (headerLength f) s.rem = true
    · exact .inr (.inr ⟨f, rfl, hf, by rw [walkVerdict, if_pos hf]⟩)
    · exact .inr (.inl ⟨f, rfl, by simpa using hf, by rw [walkVerdict, if_neg hf]⟩)

/-- The things WALK_STEP can do in its phase. -/
theorem walkStep_cases (s : State) (hp : s.phase = .walk) :
    (execWalkStep s = .next (raiseStop .endOfSource s) ∧ s.rem < 4) ∨
      (4 ≤ s.rem ∧
        (execWalkStep s = .fault .readNeverAnswered ∨
          execWalkStep s = .next (raiseFault (s.afterRead s.pos 4)) ∨
          ∃ h, memRead32 s.pos s = .ok h (s.afterRead s.pos 4) ∧
            execWalkStep s = .next (walkVerdict (parse h) h (s.afterRead s.pos 4)))) := by
  simp only [execWalkStep, hp]
  by_cases hn : s.rem < 4
  · exact .inl ⟨by rw [if_pos (show s.rem < Config.headerLen from hn)], hn⟩
  · refine .inr ⟨by omega, ?_⟩
    rw [if_neg (show ¬s.rem < Config.headerLen from hn)]
    rcases memRead32_cases s.pos s with ⟨-, e1⟩ | ⟨e, -, -⟩ | ⟨e, -⟩ | ⟨h, e, -⟩
    · simp only [State.rem] at hn
      omega
    · exact .inl (by rw [e]; rfl)
    · exact .inr (.inl (by rw [e]; rfl))
    · exact .inr (.inr ⟨h, e, by rw [e]; rfl⟩)

/-! ### A header word, spelt out register by register

Stated of a variable word, so that no proof compares the bits of an assembled one. -/

theorem writeHeader_valid_eq (s : State) (h : Word) (f : FrameHeader) :
    s.writeHeader h (.valid f) = afterValidHeader s h f := rfl

theorem invalid_read_eq (pos : Nat) (s : State) (h : Word) (c : Cause) :
    (s.afterRead pos 4).writeHeader h (.invalid c) =
      { s with hdr := h, fhValid := false, reads := ⟨pos, 4⟩ :: s.reads, port := s.port.tail } := rfl

theorem valid_read_eq (pos : Nat) (s : State) (h : Word) (f : FrameHeader) :
    (s.afterRead pos 4).writeHeader h (.valid f) =
      { afterValidHeader s h f with reads := ⟨pos, 4⟩ :: s.reads, port := s.port.tail } := rfl

theorem marker_read_eq (pos : Nat) (s : State) (h : Word) (f : FrameHeader) :
    ((s.afterRead pos 4).writeHeader h (.valid f)).afterRead (pos + 36) 4 =
      { afterValidHeader s h f with
        reads := ⟨pos + 36, 4⟩ :: ⟨pos, 4⟩ :: s.reads
        port := s.port.tail.tail } := rfl

/-- The rest of METASKIP, verdict by verdict (R152 to R154). -/
theorem metaSkipRest_invalid (pos : Nat) (h : Word) (c : Cause) (s : State) (hv : parse h = .invalid c) :
    metaSkipRest pos h s = .ok pos (s.writeHeader h (.invalid c)) := by
  rw [metaSkipRest, hv]

theorem metaSkipRest_short (pos : Nat) (h : Word) (f : FrameHeader) (s : State) (hv : parse h = .valid f)
    (hl : s.size - pos < headerLength f) : metaSkipRest pos h s = .ok pos (s.writeHeader h (.valid f)) := by
  rw [metaSkipRest, hv]
  dsimp only
  rw [if_neg (by rw [fits_iff]; omega)]

theorem metaSkipRest_fits (pos : Nat) (h : Word) (f : FrameHeader) (s : State) (hv : parse h = .valid f)
    (h0 : 0 < headerLength f) (hl : headerLength f ≤ s.size - pos) :
    metaSkipRest pos h s =
      (memRead32 (pos + 36) (s.writeHeader h (.valid f))).andThen fun m s1 =>
        .ok (if isMarker m then pos + headerLength f else pos) s1 := by
  rw [metaSkipRest, hv]
  dsimp only
  rw [if_pos (by rw [fits_iff]; omega), metaOffset_eq]

theorem isMarker_iff (m : Word) : isMarker m = true ↔ m = 0x58696E67#32 ∨ m = 0x496E666F#32 := by
  simp [isMarker, Config.markerVbr, Config.markerCbr]

/-- A known word at POS in phase WALK (R164 to R168). -/
theorem walkOnHeader_near (r : ParseResult) (h : Word) (s : State) (hn : s.size - s.pos < 4) :
    walkOnHeader r h s = { s with stop := .endOfSource, phase := .done } := by
  rw [walkOnHeader, State.rem, if_pos (show s.size - s.pos < Config.headerLen from hn)]
  rfl

theorem walkOnHeader_far (r : ParseResult) (h : Word) (s : State) (hn : 4 ≤ s.size - s.pos) :
    walkOnHeader r h s = walkVerdict r h (s.afterRead s.pos 4) := by
  rw [walkOnHeader, State.rem, if_neg (show ¬s.size - s.pos < Config.headerLen from Nat.not_lt.2 hn)]
  rfl

theorem walkVerdict_invalid (c : Cause) (h : Word) (s : State) :
    walkVerdict (.invalid c) h s = raiseInvalid c (s.writeHeader h (.invalid c)) := rfl

theorem walkVerdict_short (f : FrameHeader) (h : Word) (s : State) (hl : s.size - s.pos < headerLength f) :
    walkVerdict (.valid f) h s = raiseStop .truncatedFrame (s.writeHeader h (.valid f)) := by
  rw [walkVerdict, if_neg (by rw [fits_iff, State.rem]; omega)]

theorem walkVerdict_fits (f : FrameHeader) (h : Word) (s : State) (h0 : 0 < headerLength f)
    (hl : headerLength f ≤ s.size - s.pos) :
    walkVerdict (.valid f) h s =
      { s.writeHeader h (.valid f) with cnt := s.cnt + 1, pos := s.pos + headerLength f } := by
  rw [walkVerdict, if_pos (by rw [fits_iff, State.rem]; omega)]

/-- A known word at POS in phase META (R151 to R155). -/
theorem metaOnHeader_near (r : ParseResult) (h : Word) (marked : Bool) (s : State) (hn : s.size - s.pos < 44) :
    metaOnHeader r h marked s = { s with phase := .walk } := by
  unfold metaOnHeader
  rw [State.rem, if_pos (show s.size - s.pos < Config.metaMin from hn)]
  rfl

theorem metaOnHeader_invalid (c : Cause) (h : Word) (marked : Bool) (s : State) (hn : 44 ≤ s.size - s.pos) :
    metaOnHeader (.invalid c) h marked s = enterWalk s.pos ((s.afterRead s.pos 4).writeHeader h (.invalid c)) := by
  unfold metaOnHeader
  rw [State.rem, if_neg (show ¬s.size - s.pos < Config.metaMin from Nat.not_lt.2 hn)]
  rfl

theorem metaOnHeader_short (f : FrameHeader) (h : Word) (marked : Bool) (s : State) (hn : 44 ≤ s.size - s.pos)
    (hl : s.size - s.pos < headerLength f) :
    metaOnHeader (.valid f) h marked s = enterWalk s.pos ((s.afterRead s.pos 4).writeHeader h (.valid f)) := by
  unfold metaOnHeader
  rw [State.rem, if_neg (show ¬s.size - s.pos < Config.metaMin from Nat.not_lt.2 hn)]
  dsimp only
  rw [if_neg (by rw [fits_iff]; omega)]
  rfl

theorem metaOnHeader_fits (f : FrameHeader) (h : Word) (marked : Bool) (s : State) (hn : 44 ≤ s.size - s.pos)
    (h0 : 0 < headerLength f) (hl : headerLength f ≤ s.size - s.pos) :
    metaOnHeader (.valid f) h marked s =
      enterWalk (if marked then s.pos + headerLength f else s.pos)
        (((s.afterRead s.pos 4).writeHeader h (.valid f)).afterRead (s.pos + 36) 4) := by
  unfold metaOnHeader
  rw [State.rem, if_neg (show ¬s.size - s.pos < Config.metaMin from Nat.not_lt.2 hn)]
  dsimp only
  rw [if_pos (by rw [fits_iff]; omega)]
  rfl

/-- An element in its phase, and in the phases that look for none. -/
theorem headerElement_walk (r : ParseResult) (h : Word) (s : State) (hp : s.phase = .walk) :
    headerElement r h s = .next (walkOnHeader r h s) := by
  rw [headerElement, hp]

theorem headerElement_meta (r : ParseResult) (h : Word) (s : State) (hp : s.phase = .metadata) :
    headerElement r h s = .next (metaOnHeader r h false s) := by
  rw [headerElement, hp]

theorem headerElement_other (r : ParseResult) (h : Word) (s : State) (h1 : s.phase ≠ .walk) (h2 : s.phase ≠ .metadata) :
    headerElement r h s = .next s := by
  rw [headerElement]
  cases hp : s.phase <;> first | rfl | exact absurd hp h1 | exact absurd hp h2

end Sys2Proof.Machine
end

