-- ==== Sys2Proof/Tests/Slice0.lean ====
section
/-! SUPPORT. Tests and witnesses. The words, bytes and expected results are those of `spec/` (`30_encoding.md`,
`42_framelen.md` R136, `95_test_vectors.md`: the vector ids stand in the names or the comments), not the model's
answers. A theorem `witness_<Obligation>` shows that the hypotheses of that statement can be met together. -/

namespace Sys2Proof.Tests

open Sys2Proof Sys2Proof.Machine Host

/-! ### Helpers -/

/-- A source of which only the bytes from `off` on are given. -/
def sourceAt (off : Nat) (bs : List Byte) : Memory := bs.zipIdx.map fun x => (off + x.2, x.1)

/-- A pass in a phase, over a source. -/
def inPhase (ph : Phase) (size pos cnt : Nat) (m : Memory) : State :=
  { State.reset with phase := ph, size := size, pos := pos, cnt := cnt, mem := m }

/-- A view of a next state. -/
def see {α : Type} (f : State → α) : Outcome State Fault Refusal → Option α
  | .next s => some (f s)
  | .fault _ => none
  | .refused _ => none

/-- The registers a test looks at. -/
structure Regs where
  phase    : Phase
  pos      : Nat
  cnt      : Nat
  stop     : Stop
  invCause : Cause
deriving DecidableEq, Repr

def regs (o : Outcome State Fault Refusal) : Option Regs :=
  see (fun s => ⟨s.phase, s.pos, s.cnt, s.stop, s.invCause⟩) o

/-- What a test of the metadata-frame skip looks at. -/
structure Skipped where
  phase : Phase
  pos   : Nat
  reads : List ReadReq
deriving DecidableEq, Repr

/-- The reads, newest first. -/
def readsOf (o : Outcome State Fault Refusal) : Option (List ReadReq) := see State.reads o

/-- The result of a function. -/
def result (o : Outcome State Fault Refusal) : Option FnResult := see State.fout o

/-- The length of the frame a WALK step over a header counts and steps over, from offset 100 of 2000. -/
def walked (b0 b1 b2 b3 : Byte) : Option Regs :=
  regs (step (inPhase .walk 2000 100 7 (sourceAt 100 [b0, b1, b2, b3])))

theorem next_of_see {α : Type} {f : State → α} {o : Outcome State Fault Refusal} {v : α} (h : see f o = some v) :
    ∃ t, o = .next t ∧ f t = v := by
  cases o with
  | next s => exact ⟨s, rfl, by simpa [see] using h⟩
  | fault r => simp [see] at h
  | refused r => simp [see] at h

/-! ### Well-formedness: one term for each check that the check refuses, beside one it takes -/

theorem test_wf_metaVbr : Instr.wf (.metaVbr 1#1 0#4 0#2 0#1 0#9) = false ∧ Instr.wf (.metaVbr 1#1 15#4 0#2 0#1 0#9) = false ∧
    Instr.wf (.metaVbr 1#1 9#4 3#2 0#1 0#9) = false ∧ Instr.wf (.metaVbr 1#1 1#4 2#2 0#1 0#9) = true := by decide

theorem test_wf_metaCbr : Instr.wf (.metaCbr 1#1 0#4 0#2 0#1 0#9) = false ∧ Instr.wf (.metaCbr 1#1 15#4 0#2 0#1 0#9) = false ∧
    Instr.wf (.metaCbr 1#1 9#4 3#2 0#1 0#9) = false ∧ Instr.wf (.metaCbr 1#1 14#4 0#2 0#1 0#9) = true := by decide

theorem test_wf_invalidSync : Instr.wf (.invalidSync 0x7FF#11 0#21) = false ∧ Instr.wf (.invalidSync 0x7FE#11 0#21) = true := by
  decide

theorem test_wf_invalidSampleRate : Instr.wf (.invalidSampleRate 1#1 0#4 0#10) = false ∧
    Instr.wf (.invalidSampleRate 1#1 15#4 0#10) = false ∧ Instr.wf (.invalidSampleRate 1#1 14#4 0#10) = true := by decide

theorem test_wf_extract : Instr.wf (.extract 0#32 32 1) = false ∧ Instr.wf (.extract 0#32 31 32) = false ∧
    Instr.wf (.extract 0#32 3 5) = false ∧ Instr.wf (.extract 0#32 31 31) = true := by decide

theorem test_wf_flen : Instr.wf (.flen 0#9 44100#16 0#1) = false ∧ Instr.wf (.flen 128#9 0#16 0#1) = false ∧
    Instr.wf (.flen 128#9 44100#16 0#1) = true := by decide

/-! ### Decoding: a word written out from the spec for every row -/

-- the 42 frames: the words of `95_test_vectors.md` section 3 (protection 1), and with other free bits (A2 to A4)

theorem test_decode_frame_b1 :
    decodeHeader 0xFFFB1000#32 = .ok (.frameB1S0 1#1 0#1 0#9) ∧
      decodeHeader 0xFFFB1600#32 = .ok (.frameB1S1 1#1 1#1 0#9) ∧
      decodeHeader 0xFFFB1800#32 = .ok (.frameB1S2 1#1 0#1 0#9) := by decide

theorem test_decode_frame_b2 :
    decodeHeader 0xFFFB2000#32 = .ok (.frameB2S0 1#1 0#1 0#9) ∧
      decodeHeader 0xFFFB2600#32 = .ok (.frameB2S1 1#1 1#1 0#9) ∧
      decodeHeader 0xFFFB2800#32 = .ok (.frameB2S2 1#1 0#1 0#9) := by decide

theorem test_decode_frame_b3 :
    decodeHeader 0xFFFB3000#32 = .ok (.frameB3S0 1#1 0#1 0#9) ∧
      decodeHeader 0xFFFB3600#32 = .ok (.frameB3S1 1#1 1#1 0#9) ∧
      decodeHeader 0xFFFB3800#32 = .ok (.frameB3S2 1#1 0#1 0#9) := by decide

theorem test_decode_frame_b4 :
    decodeHeader 0xFFFB4000#32 = .ok (.frameB4S0 1#1 0#1 0#9) ∧
      decodeHeader 0xFFFB4600#32 = .ok (.frameB4S1 1#1 1#1 0#9) ∧
      decodeHeader 0xFFFB4800#32 = .ok (.frameB4S2 1#1 0#1 0#9) := by decide

theorem test_decode_frame_b5 :
    decodeHeader 0xFFFB5000#32 = .ok (.frameB5S0 1#1 0#1 0#9) ∧
      decodeHeader 0xFFFB5600#32 = .ok (.frameB5S1 1#1 1#1 0#9) ∧
      decodeHeader 0xFFFB5800#32 = .ok (.frameB5S2 1#1 0#1 0#9) := by decide

theorem test_decode_frame_b6 :
    decodeHeader 0xFFFB6000#32 = .ok (.frameB6S0 1#1 0#1 0#9) ∧
      decodeHeader 0xFFFB6600#32 = .ok (.frameB6S1 1#1 1#1 0#9) ∧
      decodeHeader 0xFFFB6800#32 = .ok (.frameB6S2 1#1 0#1 0#9) := by decide

theorem test_decode_frame_b7 :
    decodeHeader 0xFFFB7000#32 = .ok (.frameB7S0 1#1 0#1 0#9) ∧
      decodeHeader 0xFFFB7600#32 = .ok (.frameB7S1 1#1 1#1 0#9) ∧
      decodeHeader 0xFFFB7800#32 = .ok (.frameB7S2 1#1 0#1 0#9) := by decide

theorem test_decode_frame_b8 :
    decodeHeader 0xFFFB8000#32 = .ok (.frameB8S0 1#1 0#1 0#9) ∧
      decodeHeader 0xFFFB8600#32 = .ok (.frameB8S1 1#1 1#1 0#9) ∧
      decodeHeader 0xFFFB8800#32 = .ok (.frameB8S2 1#1 0#1 0#9) := by decide

theorem test_decode_frame_b9 :
    decodeHeader 0xFFFB9000#32 = .ok (.frameB9S0 1#1 0#1 0#9) ∧
      decodeHeader 0xFFFB9600#32 = .ok (.frameB9S1 1#1 1#1 0#9) ∧
      decodeHeader 0xFFFB9800#32 = .ok (.frameB9S2 1#1 0#1 0#9) := by decide

theorem test_decode_frame_b10 :
    decodeHeader 0xFFFBA000#32 = .ok (.frameB10S0 1#1 0#1 0#9) ∧
      decodeHeader 0xFFFBA600#32 = .ok (.frameB10S1 1#1 1#1 0#9) ∧
      decodeHeader 0xFFFBA800#32 = .ok (.frameB10S2 1#1 0#1 0#9) := by decide

theorem test_decode_frame_b11 :
    decodeHeader 0xFFFBB000#32 = .ok (.frameB11S0 1#1 0#1 0#9) ∧
      decodeHeader 0xFFFBB600#32 = .ok (.frameB11S1 1#1 1#1 0#9) ∧
      decodeHeader 0xFFFBB800#32 = .ok (.frameB11S2 1#1 0#1 0#9) := by decide

theorem test_decode_frame_b12 :
    decodeHeader 0xFFFBC000#32 = .ok (.frameB12S0 1#1 0#1 0#9) ∧
      decodeHeader 0xFFFBC600#32 = .ok (.frameB12S1 1#1 1#1 0#9) ∧
      decodeHeader 0xFFFBC800#32 = .ok (.frameB12S2 1#1 0#1 0#9) := by decide

theorem test_decode_frame_b13 :
    decodeHeader 0xFFFBD000#32 = .ok (.frameB13S0 1#1 0#1 0#9) ∧
      decodeHeader 0xFFFBD600#32 = .ok (.frameB13S1 1#1 1#1 0#9) ∧
      decodeHeader 0xFFFBD800#32 = .ok (.frameB13S2 1#1 0#1 0#9) := by decide

theorem test_decode_frame_b14 :
    decodeHeader 0xFFFBE000#32 = .ok (.frameB14S0 1#1 0#1 0#9) ∧
      decodeHeader 0xFFFBE600#32 = .ok (.frameB14S1 1#1 1#1 0#9) ∧
      decodeHeader 0xFFFBE800#32 = .ok (.frameB14S2 1#1 0#1 0#9) := by decide

theorem test_decode_free_bits : decodeHeader 0xFFFA93FF#32 = .ok (.frameB9S0 0#1 1#1 0x1FF#9) ∧
    decodeHeader 0xFFFB9100#32 = .ok (.frameB9S0 1#1 0#1 0x100#9) := by decide

-- B1 to B22: the invalid rows
theorem test_decode_invalidSync : decodeHeader 0x7FFB9000#32 = .ok (.invalidSync 0x3FF#11 0x1B9000#21) ∧
    decodeHeader 0xFFDB9000#32 = .ok (.invalidSync 0x7FE#11 0x1B9000#21) ∧
    decodeHeader 0x49443303#32 = .ok (.invalidSync 0x24A#11 0x043303#21) := by decide

theorem test_decode_invalidVersion : decodeHeader 0xFFE39000#32 = .ok (.invalidVersion0 0x39000#19) ∧
    decodeHeader 0xFFEB9000#32 = .ok (.invalidVersion1 0x39000#19) ∧
    decodeHeader 0xFFF39000#32 = .ok (.invalidVersion2 0x39000#19) := by decide

theorem test_decode_invalidLayer : decodeHeader 0xFFF99000#32 = .ok (.invalidLayer0 0x19000#17) ∧
    decodeHeader 0xFFFD9000#32 = .ok (.invalidLayer2 0x19000#17) ∧
    decodeHeader 0xFFFF9000#32 = .ok (.invalidLayer3 0x19000#17) := by decide

theorem test_decode_invalidBitrate : decodeHeader 0xFFFB0A00#32 = .ok (.invalidBitrateFree 1#1 0xA00#12) ∧
    decodeHeader 0xFFFBFC00#32 = .ok (.invalidBitrateBad 1#1 0xC00#12) := by decide

theorem test_decode_invalidSampleRate : decodeHeader 0xFFFB9C00#32 = .ok (.invalidSampleRate 1#1 9#4 0#10) ∧
    decodeHeader 0xFFFB1E00#32 = .ok (.invalidSampleRate 1#1 1#4 0x200#10) := by decide

-- a tag header, P3; "id3" is none (TG13); nine bytes are none (TG1)
theorem test_decode_tag :
    decode .tag [0x49#8, 0x44#8, 0x33#8, 0x04#8, 0x00#8, 0x80#8, 0x80#8, 0x80#8, 0x80#8, 0x8A#8] =
      .ok (.tag 0x04#8 0x00#8 0x80#8 0x80#8 0x80#8 0x80#8 0x8A#8) ∧
    decode .tag [0x69#8, 0x64#8, 0x33#8, 0x03#8, 0x00#8, 0x00#8, 0x00#8, 0x00#8, 0x02#8, 0x01#8] =
      .error .notATagIdentifier ∧
    decode .tag [0x49#8, 0x44#8, 0x33#8, 0x03#8, 0x00#8, 0x00#8, 0x00#8, 0x00#8, 0x00#8] = .error .tooFewBytes := by
  decide

-- statistics frames: P1 and P3; the marker one byte off (M9) leaves a frame
theorem test_decode_meta :
    decode .metadata ([0xFF#8, 0xFB#8, 0x90#8, 0x00#8] ++ List.replicate 32 0#8 ++ [0x58#8, 0x69#8, 0x6E#8, 0x67#8]) =
      .ok (.metaVbr 1#1 9#4 0#2 0#1 0#9) ∧
    decode .metadata ([0xFF#8, 0xFA#8, 0xEA#8, 0x00#8] ++ List.replicate 32 0#8 ++ [0x49#8, 0x6E#8, 0x66#8, 0x6F#8]) =
      .ok (.metaCbr 0#1 14#4 2#2 1#1 0#9) ∧
    decode .metadata ([0xFF#8, 0xFB#8, 0x90#8, 0x00#8] ++ List.replicate 28 0#8 ++
      [0x58#8, 0x69#8, 0x6E#8, 0x67#8, 0#8, 0#8, 0#8, 0#8]) = .ok (.frameB9S0 1#1 0#1 0#9) := by decide

-- the codes of R26
theorem test_decode_phase : decodePhase 1#3 = .ok .tagStep ∧ decodePhase 2#3 = .ok .metaStep ∧
    decodePhase 3#3 = .ok .walkStep ∧ decodePhase 0#3 = .error .phaseEnablesNoStep ∧
    decodePhase 6#3 = .error .phaseEnablesNoStep := by decide

-- the pseudo-elements: `FF FB 90 00` and `FF FB 92 00` (R87)
theorem test_pseudo_bytes : encode .frame128 = [0xFF#8, 0xFB#8, 0x90#8, 0x00#8] ∧
    encode .frame128p = [0xFF#8, 0xFB#8, 0x92#8, 0x00#8] := by decide

-- the table's own match values, in its numbering
theorem test_decodeTableWord : decodeTableWord 32 0xFFFA9000 = some (.frameB9S0 0#1 0#1 0#9) ∧
    decodeTableWord 64 0x58696E67FFFA9000 = some (.metaVbr 0#1 9#4 0#2 0#1 0#9) ∧
    decodeTableWord 80 0x49443300000000000000 = some (.tag 0#8 0#8 0#8 0#8 0#8 0#8 0#8) ∧
    decodeTableWord 8 0x3 = some .walkStep ∧ decodeTableWord 8 0x0 = none := by decide

theorem test_withFetchWord : nextInstr (State.reset.withFetchWord 32 0xFFFA9000) = some (.frameB9S0 0#1 0#1 0#9) ∧
    nextInstr (State.reset.withFetchWord 8 2) = some .metaStep := by decide

/-! ### The combinational functions -/

-- E1 to E7, E17 to E24
theorem test_extract_fields :
    [(31, 11), (20, 2), (18, 2), (16, 1), (15, 4), (11, 2), (9, 1)].map (fun x => extract 0xFFFB9200#32 x.1 x.2) =
      [some 0x7FF, some 3, some 1, some 1, some 9, some 0, some 1] ∧
    [(31, 31), (30, 31), (0, 1), (4, 5), (19, 4), (17, 0)].map (fun x => extract 0xDEADBEEF#32 x.1 x.2) =
      [some 0x6F56DF77, some 0x5EADBEEF, some 1, some 0x0F, some 0xD, some 0] := by decide

-- E28 to E30
theorem test_extract_refused : [(3, 5), (31, 32), (32, 1)].map (fun x => extract 0xFFFB9200#32 x.1 x.2) =
    [none, none, none] := by decide

-- A2 to A8
theorem test_parse_valid : parse 0xFFFA93FF#32 = .valid ⟨128, 44100, 1#1⟩ ∧ parse 0xFFFB9100#32 = .valid ⟨128, 44100, 0#1⟩ ∧
    parse 0xFFFB1000#32 = .valid ⟨32, 44100, 0#1⟩ ∧ parse 0xFFFBEA00#32 = .valid ⟨320, 32000, 1#1⟩ := by decide

-- B1, B7, B16 to B20, B14: the first failing check is reported
theorem test_parse_invalid : parse 0x7FE00000#32 = .invalid .sync ∧ parse 0xFFE00000#32 = .invalid .version ∧
    parse 0xFFFFFFFF#32 = .invalid .layer ∧ parse 0xFFFBFC00#32 = .invalid .bitrate ∧
    parse 0xFFFB9C00#32 = .invalid .sampleRate := by decide

-- L1 to L10
theorem test_flen : [(128, 44100, 0), (128, 44100, 1), (32, 48000, 0), (320, 32000, 1), (320, 44100, 0), (56, 44100, 0),
      (80, 44100, 1), (112, 44100, 0), (224, 44100, 0), (256, 44100, 1)].map (fun x => frameLength x.1 x.2.1 x.2.2) =
    [417, 418, 96, 1441, 1044, 182, 262, 365, 731, 836] := by decide

theorem test_flen_exec : see State.flen (exec (.flen 128#9 44100#16 1#1) State.reset) = some 418#11 := by decide

-- T1 to T4, T6
theorem test_fits : [(417, 417), (417, 416), (418, 417), (417, 4), (0, 100)].map (fun x => fits x.1 x.2) =
    [true, false, false, false, false] := by decide

/-! ### The byte source -/

-- MR1 to MR6
theorem test_read : (memRead32 0 { State.reset with size := 12, mem := sourceAt 0 ((List.range 12).map fun k => BitVec.ofNat 8 (0x10 + k)) }) =
    .ok 0x10111213#32 ({ State.reset with size := 12, mem := sourceAt 0 ((List.range 12).map fun k => BitVec.ofNat 8 (0x10 + k)) }.afterRead 0 4) ∧
    (sourceAt 0 ((List.range 12).map fun k => BitVec.ofNat 8 (0x10 + k))).readAt 9 4 = [0x19#8, 0x1A#8, 0x1B#8] ∧
    (sourceAt 0 ((List.range 12).map fun k => BitVec.ofNat 8 (0x10 + k))).readAt 12 4 = [] := by decide

-- MR7
theorem test_read_outside : memRead32 9 { State.reset with size := 12 } = .outside := by decide

-- MR9, MR10: the fault entry (P8)
theorem test_read_fails :
    regs (step { inPhase .walk 1254 417 1 (sourceAt 417 [0xFF#8, 0xFB#8, 0x92#8, 0x00#8]) with port := [.error] }) =
      some ⟨.fault, 417, 1, .ioError, .none⟩ ∧
    regs (step { inPhase .walk 1254 417 1 (sourceAt 417 [0xFF#8, 0xFB#8, 0x92#8, 0x00#8]) with port := [.short 3] }) =
      some ⟨.fault, 417, 1, .ioError, .none⟩ := by decide

/-! ### The tag skip -/

/-- The TAG step over ten bytes, in a source of a size. -/
def tagged (size : Nat) (bs : List Byte) : Option Regs :=
  regs (step (inPhase .tag size 0 0 (sourceAt 0 bs)))

-- TG1, TG2, TG4, TG6, TG11
theorem test_tagStep :
    tagged 9 [0x49#8, 0x44#8, 0x33#8, 0x03#8, 0x00#8, 0x00#8, 0x00#8, 0x00#8, 0x00#8] =
      some ⟨.metadata, 0, 0, .none, .none⟩ ∧
    tagged 10 [0x49#8, 0x44#8, 0x33#8, 0x03#8, 0x00#8, 0x00#8, 0x00#8, 0x00#8, 0x00#8, 0x00#8] =
      some ⟨.metadata, 10, 0, .none, .none⟩ ∧
    tagged 1000 [0x49#8, 0x44#8, 0x33#8, 0x03#8, 0x00#8, 0x00#8, 0x80#8, 0x80#8, 0x82#8, 0x81#8] =
      some ⟨.metadata, 267, 0, .none, .none⟩ ∧
    tagged 1000 [0x49#8, 0x44#8, 0x33#8, 0x03#8, 0x00#8, 0x00#8, 0x00#8, 0x00#8, 0x07#8, 0x5F#8] =
      some ⟨.metadata, 1000, 0, .none, .none⟩ ∧
    tagged 1000 [0x49#8, 0x44#8, 0x33#8, 0x03#8, 0x00#8, 0x00#8, 0x00#8, 0x00#8, 0x01#8, 0x00#8] =
      some ⟨.metadata, 138, 0, .none, .none⟩ := by decide

-- TG14 to TG17
theorem test_no_tag :
    tagged 1000 [0x49#8, 0x44#8, 0x32#8, 0x03#8, 0x00#8, 0x00#8, 0x00#8, 0x00#8, 0x02#8, 0x01#8] =
      some ⟨.metadata, 0, 0, .none, .none⟩ ∧
    tagged 1000 [0x48#8, 0x44#8, 0x33#8, 0x03#8, 0x00#8, 0x00#8, 0x00#8, 0x00#8, 0x02#8, 0x01#8] =
      some ⟨.metadata, 0, 0, .none, .none⟩ ∧
    tagged 1000 [0x49#8, 0x45#8, 0x33#8, 0x03#8, 0x00#8, 0x00#8, 0x00#8, 0x00#8, 0x02#8, 0x01#8] =
      some ⟨.metadata, 0, 0, .none, .none⟩ ∧
    tagged 1000 [0x00#8, 0x49#8, 0x44#8, 0x33#8, 0x03#8, 0x00#8, 0x00#8, 0x00#8, 0x00#8, 0x02#8] =
      some ⟨.metadata, 0, 0, .none, .none⟩ := by decide

-- TG7 and TG8: the largest size
theorem test_synchsafe : synchsafe 0x7F#8 0x7F#8 0x7F#8 0x7F#8 = 268435455 ∧ synchsafe 0xFF#8 0xFF#8 0xFF#8 0xFF#8 = 268435455 ∧
    synchsafe 0x01#8 0x00#8 0x00#8 0x00#8 = 2097152 ∧ synchsafe 0x00#8 0x01#8 0x00#8 0x00#8 = 16384 := by decide

-- TG3 as the function and as the element
theorem test_tagskip :
    result (exec (.tagskip 0) (inPhase .idle 1000 0 0
      (sourceAt 0 [0x49#8, 0x44#8, 0x33#8, 0x04#8, 0x00#8, 0xFF#8, 0x00#8, 0x00#8, 0x02#8, 0x01#8]))) =
      some (.position 267) := by decide

theorem test_tag : regs (exec (.tag 0x04#8 0x00#8 0xFF#8 0x00#8 0x00#8 0x02#8 0x01#8) (inPhase .tag 1000 0 0 [])) =
    some ⟨.metadata, 267, 0, .none, .none⟩ := by decide

/-! ### The metadata-frame skip -/

/-- The META step over a header at 0 and four bytes at 36, in a source of a size: POS and the reads. -/
def metaSkipped (size : Nat) (hdr marker : List Byte) : Option Skipped :=
  see (fun s => ⟨s.phase, s.pos, s.reads⟩) (step (inPhase .metadata size 0 0 (sourceAt 0 hdr ++ sourceAt 36 marker)))

-- M1 to M4
theorem test_metaStep_fit :
    metaSkipped 43 [0xFF#8, 0xFB#8, 0x90#8, 0x00#8] [0x58#8, 0x69#8, 0x6E#8, 0x67#8] = some ⟨.walk, 0, []⟩ ∧
    metaSkipped 44 [0xFF#8, 0xFB#8, 0x90#8, 0x00#8] [0x58#8, 0x69#8, 0x6E#8, 0x67#8] = some ⟨.walk, 0, [⟨0, 4⟩]⟩ ∧
    metaSkipped 416 [0xFF#8, 0xFB#8, 0x90#8, 0x00#8] [0x58#8, 0x69#8, 0x6E#8, 0x67#8] = some ⟨.walk, 0, [⟨0, 4⟩]⟩ ∧
    metaSkipped 417 [0xFF#8, 0xFB#8, 0x90#8, 0x00#8] [0x58#8, 0x69#8, 0x6E#8, 0x67#8] =
      some ⟨.walk, 417, [⟨36, 4⟩, ⟨0, 4⟩]⟩ := by decide

-- M6 to M8, M11, M12, M14
theorem test_metaStep_marker :
    metaSkipped 2000 [0xFF#8, 0xFB#8, 0x90#8, 0x00#8] [0x49#8, 0x6E#8, 0x66#8, 0x6F#8] =
      some ⟨.walk, 417, [⟨36, 4⟩, ⟨0, 4⟩]⟩ ∧
    metaSkipped 2000 [0xFF#8, 0xFB#8, 0x90#8, 0x00#8] [0x78#8, 0x69#8, 0x6E#8, 0x67#8] =
      some ⟨.walk, 0, [⟨36, 4⟩, ⟨0, 4⟩]⟩ ∧
    metaSkipped 2000 [0xFF#8, 0xFB#8, 0x90#8, 0x00#8] [0x58#8, 0x69#8, 0x6E#8, 0x00#8] =
      some ⟨.walk, 0, [⟨36, 4⟩, ⟨0, 4⟩]⟩ ∧
    metaSkipped 2000 [0xFF#8, 0xFB#8, 0x00#8, 0x00#8] [0x58#8, 0x69#8, 0x6E#8, 0x67#8] = some ⟨.walk, 0, [⟨0, 4⟩]⟩ ∧
    metaSkipped 2000 [0xFF#8, 0xFA#8, 0x92#8, 0x00#8] [0x58#8, 0x69#8, 0x6E#8, 0x67#8] =
      some ⟨.walk, 418, [⟨36, 4⟩, ⟨0, 4⟩]⟩ ∧
    metaSkipped 2000 [0xFF#8, 0xFB#8, 0xEA#8, 0x00#8] [0x58#8, 0x69#8, 0x6E#8, 0x67#8] =
      some ⟨.walk, 1441, [⟨36, 4⟩, ⟨0, 4⟩]⟩ := by decide

-- M5 and M13 as the elements; P6: a second one is counted
theorem test_metaVbr : regs (exec (.metaVbr 1#1 9#4 0#2 0#1 0#9) (inPhase .metadata 2000 0 0 [])) =
      some ⟨.walk, 417, 0, .none, .none⟩ ∧
    regs (exec (.metaVbr 1#1 9#4 0#2 0#1 0#9) (inPhase .walk 1251 417 0 [])) = some ⟨.walk, 834, 1, .none, .none⟩ := by
  decide

theorem test_metaCbr : regs (exec (.metaCbr 1#1 1#4 1#2 0#1 0#9) (inPhase .metadata 2000 0 0 [])) =
    some ⟨.walk, 96, 0, .none, .none⟩ := by decide

-- M5 and M7 as the function
theorem test_metaskip :
    result (exec (.metaskip 0) (inPhase .idle 2000 0 0
      (sourceAt 0 [0xFF#8, 0xFB#8, 0x90#8, 0x00#8] ++ sourceAt 36 [0x58#8, 0x69#8, 0x6E#8, 0x67#8]))) =
      some (.position 417) ∧
    result (exec (.metaskip 0) (inPhase .idle 2000 0 0
      (sourceAt 0 [0xFF#8, 0xFB#8, 0x90#8, 0x00#8] ++ sourceAt 36 [0x78#8, 0x69#8, 0x6E#8, 0x67#8]))) =
      some (.position 0) := by decide

/-! ### The Walker -/

-- the lengths of R136, without and with padding: 100 + length, one more frame

theorem test_walk_frame_b1 :
    walked 0xFF#8 0xFB#8 0x10#8 0x00#8 = some ⟨.walk, 100 + 104, 8, .none, .none⟩ ∧
      walked 0xFF#8 0xFB#8 0x16#8 0x00#8 = some ⟨.walk, 100 + 97, 8, .none, .none⟩ ∧
      walked 0xFF#8 0xFB#8 0x18#8 0x00#8 = some ⟨.walk, 100 + 144, 8, .none, .none⟩ := by decide

theorem test_walk_frame_b2 :
    walked 0xFF#8 0xFB#8 0x20#8 0x00#8 = some ⟨.walk, 100 + 130, 8, .none, .none⟩ ∧
      walked 0xFF#8 0xFB#8 0x26#8 0x00#8 = some ⟨.walk, 100 + 121, 8, .none, .none⟩ ∧
      walked 0xFF#8 0xFB#8 0x28#8 0x00#8 = some ⟨.walk, 100 + 180, 8, .none, .none⟩ := by decide

theorem test_walk_frame_b3 :
    walked 0xFF#8 0xFB#8 0x30#8 0x00#8 = some ⟨.walk, 100 + 156, 8, .none, .none⟩ ∧
      walked 0xFF#8 0xFB#8 0x36#8 0x00#8 = some ⟨.walk, 100 + 145, 8, .none, .none⟩ ∧
      walked 0xFF#8 0xFB#8 0x38#8 0x00#8 = some ⟨.walk, 100 + 216, 8, .none, .none⟩ := by decide

theorem test_walk_frame_b4 :
    walked 0xFF#8 0xFB#8 0x40#8 0x00#8 = some ⟨.walk, 100 + 182, 8, .none, .none⟩ ∧
      walked 0xFF#8 0xFB#8 0x46#8 0x00#8 = some ⟨.walk, 100 + 169, 8, .none, .none⟩ ∧
      walked 0xFF#8 0xFB#8 0x48#8 0x00#8 = some ⟨.walk, 100 + 252, 8, .none, .none⟩ := by decide

theorem test_walk_frame_b5 :
    walked 0xFF#8 0xFB#8 0x50#8 0x00#8 = some ⟨.walk, 100 + 208, 8, .none, .none⟩ ∧
      walked 0xFF#8 0xFB#8 0x56#8 0x00#8 = some ⟨.walk, 100 + 193, 8, .none, .none⟩ ∧
      walked 0xFF#8 0xFB#8 0x58#8 0x00#8 = some ⟨.walk, 100 + 288, 8, .none, .none⟩ := by decide

theorem test_walk_frame_b6 :
    walked 0xFF#8 0xFB#8 0x60#8 0x00#8 = some ⟨.walk, 100 + 261, 8, .none, .none⟩ ∧
      walked 0xFF#8 0xFB#8 0x66#8 0x00#8 = some ⟨.walk, 100 + 241, 8, .none, .none⟩ ∧
      walked 0xFF#8 0xFB#8 0x68#8 0x00#8 = some ⟨.walk, 100 + 360, 8, .none, .none⟩ := by decide

theorem test_walk_frame_b7 :
    walked 0xFF#8 0xFB#8 0x70#8 0x00#8 = some ⟨.walk, 100 + 313, 8, .none, .none⟩ ∧
      walked 0xFF#8 0xFB#8 0x76#8 0x00#8 = some ⟨.walk, 100 + 289, 8, .none, .none⟩ ∧
      walked 0xFF#8 0xFB#8 0x78#8 0x00#8 = some ⟨.walk, 100 + 432, 8, .none, .none⟩ := by decide

theorem test_walk_frame_b8 :
    walked 0xFF#8 0xFB#8 0x80#8 0x00#8 = some ⟨.walk, 100 + 365, 8, .none, .none⟩ ∧
      walked 0xFF#8 0xFB#8 0x86#8 0x00#8 = some ⟨.walk, 100 + 337, 8, .none, .none⟩ ∧
      walked 0xFF#8 0xFB#8 0x88#8 0x00#8 = some ⟨.walk, 100 + 504, 8, .none, .none⟩ := by decide

theorem test_walk_frame_b9 :
    walked 0xFF#8 0xFB#8 0x90#8 0x00#8 = some ⟨.walk, 100 + 417, 8, .none, .none⟩ ∧
      walked 0xFF#8 0xFB#8 0x96#8 0x00#8 = some ⟨.walk, 100 + 385, 8, .none, .none⟩ ∧
      walked 0xFF#8 0xFB#8 0x98#8 0x00#8 = some ⟨.walk, 100 + 576, 8, .none, .none⟩ := by decide

theorem test_walk_frame_b10 :
    walked 0xFF#8 0xFB#8 0xA0#8 0x00#8 = some ⟨.walk, 100 + 522, 8, .none, .none⟩ ∧
      walked 0xFF#8 0xFB#8 0xA6#8 0x00#8 = some ⟨.walk, 100 + 481, 8, .none, .none⟩ ∧
      walked 0xFF#8 0xFB#8 0xA8#8 0x00#8 = some ⟨.walk, 100 + 720, 8, .none, .none⟩ := by decide

theorem test_walk_frame_b11 :
    walked 0xFF#8 0xFB#8 0xB0#8 0x00#8 = some ⟨.walk, 100 + 626, 8, .none, .none⟩ ∧
      walked 0xFF#8 0xFB#8 0xB6#8 0x00#8 = some ⟨.walk, 100 + 577, 8, .none, .none⟩ ∧
      walked 0xFF#8 0xFB#8 0xB8#8 0x00#8 = some ⟨.walk, 100 + 864, 8, .none, .none⟩ := by decide

theorem test_walk_frame_b12 :
    walked 0xFF#8 0xFB#8 0xC0#8 0x00#8 = some ⟨.walk, 100 + 731, 8, .none, .none⟩ ∧
      walked 0xFF#8 0xFB#8 0xC6#8 0x00#8 = some ⟨.walk, 100 + 673, 8, .none, .none⟩ ∧
      walked 0xFF#8 0xFB#8 0xC8#8 0x00#8 = some ⟨.walk, 100 + 1008, 8, .none, .none⟩ := by decide

theorem test_walk_frame_b13 :
    walked 0xFF#8 0xFB#8 0xD0#8 0x00#8 = some ⟨.walk, 100 + 835, 8, .none, .none⟩ ∧
      walked 0xFF#8 0xFB#8 0xD6#8 0x00#8 = some ⟨.walk, 100 + 769, 8, .none, .none⟩ ∧
      walked 0xFF#8 0xFB#8 0xD8#8 0x00#8 = some ⟨.walk, 100 + 1152, 8, .none, .none⟩ := by decide

theorem test_walk_frame_b14 :
    walked 0xFF#8 0xFB#8 0xE0#8 0x00#8 = some ⟨.walk, 100 + 1044, 8, .none, .none⟩ ∧
      walked 0xFF#8 0xFB#8 0xE6#8 0x00#8 = some ⟨.walk, 100 + 961, 8, .none, .none⟩ ∧
      walked 0xFF#8 0xFB#8 0xE8#8 0x00#8 = some ⟨.walk, 100 + 1440, 8, .none, .none⟩ := by decide

-- W1 to W7, W14
theorem test_walkStep_count :
    regs (step (inPhase .walk 1000 0 0 (sourceAt 0 [0xFF#8, 0xFB#8, 0x90#8, 0x00#8]))) = some ⟨.walk, 417, 1, .none, .none⟩ ∧
    regs (step (inPhase .walk 1252 835 2 (sourceAt 835 [0xFF#8, 0xFB#8, 0x90#8, 0x00#8]))) =
      some ⟨.walk, 1252, 3, .none, .none⟩ := by decide

theorem test_walkStep_stop :
    regs (step (inPhase .walk 1000 835 2 (sourceAt 835 [0xFF#8, 0xFB#8, 0x90#8, 0x00#8]))) =
      some ⟨.done, 835, 2, .truncatedFrame, .none⟩ ∧
    regs (step (inPhase .walk 1255 1252 3 (sourceAt 1252 [0xFF#8, 0xFB#8, 0x90#8]))) =
      some ⟨.done, 1252, 3, .endOfSource, .none⟩ ∧
    regs (step (inPhase .walk 104 100 7 (sourceAt 100 [0xFF#8, 0xFB#8, 0x0C#8, 0x00#8]))) =
      some ⟨.done, 100, 7, .invalidHeader, .bitrate⟩ := by decide

-- W8 to W12 and a row of each class
theorem test_walk_invalidSync : walked 0x54#8 0x41#8 0x47#8 0x00#8 = some ⟨.done, 100, 7, .invalidHeader, .sync⟩ := by decide

theorem test_walk_invalidVersion : walked 0xFF#8 0xE3#8 0x90#8 0x00#8 = some ⟨.done, 100, 7, .invalidHeader, .version⟩ ∧
    walked 0xFF#8 0xEB#8 0x90#8 0x00#8 = some ⟨.done, 100, 7, .invalidHeader, .version⟩ ∧
    walked 0xFF#8 0xF3#8 0x90#8 0x00#8 = some ⟨.done, 100, 7, .invalidHeader, .version⟩ := by decide

theorem test_walk_invalidLayer : walked 0xFF#8 0xF9#8 0x90#8 0x00#8 = some ⟨.done, 100, 7, .invalidHeader, .layer⟩ ∧
    walked 0xFF#8 0xFD#8 0x90#8 0x00#8 = some ⟨.done, 100, 7, .invalidHeader, .layer⟩ ∧
    walked 0xFF#8 0xFF#8 0x90#8 0x00#8 = some ⟨.done, 100, 7, .invalidHeader, .layer⟩ := by decide

theorem test_walk_invalidBitrate : walked 0xFF#8 0xFB#8 0x00#8 0x00#8 = some ⟨.done, 100, 7, .invalidHeader, .bitrate⟩ ∧
    walked 0xFF#8 0xFB#8 0xF0#8 0x00#8 = some ⟨.done, 100, 7, .invalidHeader, .bitrate⟩ := by decide

theorem test_walk_invalidSampleRate :
    walked 0xFF#8 0xFB#8 0x9C#8 0x00#8 = some ⟨.done, 100, 7, .invalidHeader, .sampleRate⟩ := by decide

-- P2, in META: an invalid word (P5) and a frame without a marker leave POS
theorem test_meta_leaves_other_words :
    regs (step (inPhase .metadata 114 10 0 (sourceAt 10 [0xFF#8, 0xFB#8, 0x00#8, 0x00#8]))) =
      some ⟨.walk, 10, 0, .none, .none⟩ ∧
    regs (step (inPhase .metadata 1254 0 0 (sourceAt 0 [0xFF#8, 0xFB#8, 0x90#8, 0x00#8] ++ sourceAt 36 [0#8, 0#8, 0#8, 0#8]))) =
      some ⟨.walk, 0, 0, .none, .none⟩ := by decide

theorem test_pseudo : regs (exec .frame128 (inPhase .walk 1251 834 1 [])) = some ⟨.walk, 1251, 2, .none, .none⟩ ∧
    regs (exec .frame128p (inPhase .walk 1254 417 1 [])) = some ⟨.walk, 835, 2, .none, .none⟩ := by decide

/-! ### Commands and reset -/

-- CM2, CM3
theorem test_start : regs (step { State.reset with host := [.start 1254] }) = some ⟨.tag, 0, 0, .none, .none⟩ ∧
    regs (step { State.reset with host := [.start 3] }) = some ⟨.done, 0, 0, .endOfSource, .none⟩ := by decide

-- CM4, CM5, CM7
theorem test_start_again :
    regs (exec (.start 60) { inPhase .done 1481 1477 3 [] with stop := .invalidHeader, invCause := .sync }) =
      some ⟨.tag, 0, 0, .none, .none⟩ ∧
    regs (exec (.start 60) { inPhase .fault 1254 417 1 [] with stop := .ioError }) = some ⟨.tag, 0, 0, .none, .none⟩ ∧
    regs (exec (.start 60) (inPhase .walk 1254 417 1 [])) = some ⟨.walk, 417, 1, .none, .none⟩ := by decide

-- CM6, CM8, CM9
theorem test_abort : regs (step { inPhase .walk 1254 417 1 [] with host := [.abort] }) = some ⟨.idle, 417, 1, .none, .none⟩ ∧
    regs (exec .abort (inPhase .done 1481 1477 3 [])) = some ⟨.done, 1477, 3, .none, .none⟩ ∧
    regs (exec .abort State.reset) = some ⟨.idle, 0, 0, .none, .none⟩ := by decide

-- CM10
theorem test_abort_start : regs (step { inPhase .walk 1254 417 1 [] with host := [.abortStart 60] }) =
    some ⟨.tag, 0, 0, .none, .none⟩ := by decide

-- CM11
theorem test_hardware_reset : see (fun s => (s.phase, s.stop, s.invCause, s.busy, s.done, s.error))
    (step { inPhase .metadata 1481 33 0 [] with host := [.hardwareReset] }) =
      some (.idle, .none, .none, false, false, false) := by decide

-- K4 and K8
theorem test_countframes : result (exec (.countframes 3) State.reset) = some (.count 0) ∧
    regs (exec (.countframes 9) { State.reset with
        mem := sourceAt 0 [0x49#8, 0x44#8, 0x33#8, 0x03#8, 0x00#8, 0x00#8, 0x00#8, 0x00#8, 0x00#8] }) =
      some ⟨.done, 0, 0, .invalidHeader, .sync⟩ := by decide

/-! ### The notation -/

-- P1 and P4: `TAG size=23`, `TAGHDR size=1000`; M13: the marker of a `META` line at 36
theorem test_notation :
    (StreamLine.tag 23 3#8 0#8 0#8 0#8).expand.map (fun bs => (bs.length, bs.take 10)) =
      some (33, [0x49#8, 0x44#8, 0x33#8, 3#8, 0#8, 0#8, 0#8, 0#8, 0#8, 0x17#8]) ∧
    (StreamLine.tagHdr 1000 3#8 0#8 0#8).expand =
      some [0x49#8, 0x44#8, 0x33#8, 3#8, 0#8, 0#8, 0#8, 0#8, 0x07#8, 0x68#8] ∧
    (StreamLine.metaFrame .cbr 1#4 1#2 0#1 1#1 0#8).expand.map (fun bs => (bs.length, (bs.drop 36).take 4)) =
      some (96, [0x49#8, 0x6E#8, 0x66#8, 0x6F#8]) := by decide

/-! ### Witnesses: the hypotheses of the statements can be met together

Named after the statement; one for each clause, at a boundary of its range where it has one. -/

/-- Four bytes, by their place. -/
def four (b0 b1 b2 b3 : Byte) (k : Nat) : Byte := [b0, b1, b2, b3].getD k 0#8

/-- A frame header of 417 bytes, of 418, and an invalid word. -/
def hdr417 : Nat → Byte := four 0xFF#8 0xFB#8 0x90#8 0x00#8
def hdrBad : Nat → Byte := four 0xFF#8 0xFB#8 0x00#8 0x00#8
def xing : Nat → Byte := four 0x58#8 0x69#8 0x6E#8 0x67#8

/-- The source that holds the two words, at 0 and at 36. -/
def frameSource (m : List Byte) : Memory := sourceAt 0 [0xFF#8, 0xFB#8, 0x90#8, 0x00#8] ++ sourceAt 36 m

theorem witness_DecodingAnEncodedElementGivesItBack :
    (Instr.wf (.tag 3#8 0#8 0x80#8 0x80#8 0x80#8 0x80#8 0x8A#8) = true ∧
        Instr.decodePhase? (.tag 3#8 0#8 0x80#8 0x80#8 0x80#8 0x80#8 0x8A#8) = some .tag) ∧
      (Instr.wf (.metaCbr 0#1 14#4 2#2 1#1 0x1FF#9) = true ∧
        Instr.decodePhase? (.metaCbr 0#1 14#4 2#2 1#1 0x1FF#9) = some .metadata) ∧
      (Instr.wf (.frameB1S1 0#1 1#1 0x1FF#9) = true ∧ Instr.frameB1S1 0#1 1#1 0x1FF#9 ≠ .frame128 ∧
        Instr.frameB1S1 0#1 1#1 0x1FF#9 ≠ .frame128p ∧
        Instr.decodePhase? (.frameB1S1 0#1 1#1 0x1FF#9) = some .walk) ∧
      encodePhase .metaStep = some 2#3 := by decide

theorem witness_HeaderRowsAreDisjointAndCover :
    (frameHeaderRow 14 2).selects 0xFFFBEA00#32 = true ∧ frameHeaderRow 14 2 ∈ headerRows := by decide

theorem witness_DecoderAgreesWithParser :
    (decodeHeader 0xFFFBEA00#32 = .ok (.frameB14S2 1#1 1#1 0#9) ∧
        Instr.frameBits? (.frameB14S2 1#1 1#1 0#9) = some ⟨1#1, 14#4, 2#2, 1#1, 0#9⟩) ∧
      decodeHeader 0xFFFBFC00#32 = .ok (.invalidBitrateBad 1#1 0xC00#12) ∧
      Instr.invalidCause? (.invalidBitrateBad 1#1 0xC00#12) = some .bitrate := by decide

theorem witness_ExtractReturnsTheField :
    (31 ≤ 31 ∧ 31 ≤ 31 ∧ 31 ≤ 31 + 1) ∧ (0 ≤ 31 ∧ 1 ≤ 31 ∧ 1 ≤ 0 + 1) ∧ (17 ≤ 31 ∧ 0 ≤ 31 ∧ 0 ≤ 17 + 1) := by decide

theorem witness_ExtractOutsideItsRangeIsRefused : 31 < 32 ∧ 31 < 32 ∧ 3 + 1 < 5 := by decide

/-- B2, B7, B9, B13, B12, B15 and A8, clause by clause. -/
theorem witness_ParseReportsTheFirstFailingCheck :
    (0xFFDB9000#32).extractLsb' 21 11 ≠ 0x7FF#11 ∧
      ((0xFFF39000#32).extractLsb' 21 11 = 0x7FF#11 ∧ (0xFFF39000#32).extractLsb' 19 2 ≠ 0b11#2) ∧
      ((0xFFFD9000#32).extractLsb' 21 11 = 0x7FF#11 ∧ (0xFFFD9000#32).extractLsb' 19 2 = 0b11#2 ∧
        (0xFFFD9000#32).extractLsb' 17 2 ≠ 0b01#2) ∧
      ((0xFFFB0A00#32).extractLsb' 21 11 = 0x7FF#11 ∧ (0xFFFB0A00#32).extractLsb' 19 2 = 0b11#2 ∧
        (0xFFFB0A00#32).extractLsb' 17 2 = 0b01#2 ∧ (0xFFFB0A00#32).extractLsb' 12 4 = 0#4) ∧
      ((0xFFFBF000#32).extractLsb' 21 11 = 0x7FF#11 ∧ (0xFFFBF000#32).extractLsb' 19 2 = 0b11#2 ∧
        (0xFFFBF000#32).extractLsb' 17 2 = 0b01#2 ∧ (0xFFFBF000#32).extractLsb' 12 4 = 15#4) ∧
      ((0xFFFB1E00#32).extractLsb' 21 11 = 0x7FF#11 ∧ (0xFFFB1E00#32).extractLsb' 19 2 = 0b11#2 ∧
        (0xFFFB1E00#32).extractLsb' 17 2 = 0b01#2 ∧ (0xFFFB1E00#32).extractLsb' 12 4 ≠ 0#4 ∧
        (0xFFFB1E00#32).extractLsb' 12 4 ≠ 15#4 ∧ (0xFFFB1E00#32).extractLsb' 10 2 = 3#2) ∧
      (0xFFFBEA00#32).extractLsb' 21 11 = 0x7FF#11 ∧ (0xFFFBEA00#32).extractLsb' 19 2 = 0b11#2 ∧
      (0xFFFBEA00#32).extractLsb' 17 2 = 0b01#2 ∧ (0xFFFBEA00#32).extractLsb' 12 4 ≠ 0#4 ∧
      (0xFFFBEA00#32).extractLsb' 12 4 ≠ 15#4 ∧ (0xFFFBEA00#32).extractLsb' 10 2 ≠ 3#2 := by decide

theorem witness_ParseDoesNotSeeTheIgnoredBits :
    (0xFFFB0A00#32).extractLsb' 12 4 = 0#4 ∧ (0xFFFBF000#32).extractLsb' 12 4 = 15#4 ∧
      (0xFFFB9C00#32).extractLsb' 10 2 = 3#2 ∧ (0xFFDB9000#32).extractLsb' 21 11 ≠ 0x7FF#11 ∧
      (0xFFF39000#32).extractLsb' 19 2 ≠ 0b11#2 ∧ (0xFFFF9000#32).extractLsb' 17 2 ≠ 0b01#2 := by decide

theorem witness_SyntheticHeaderParsesToItsTableValues :
    (1 ≤ 1 ∧ 1 ≤ 14 ∧ 0 ≤ 2) ∧ (1 ≤ 14 ∧ 14 ≤ 14 ∧ 2 ≤ 2) := by decide

/-- The largest length an 11-bit register holds; a sample rate of 0 needs no more hypothesis. -/
theorem witness_FrameLengthIsTheFlooredQuotient :
    36032#16 ≠ 0#16 ∧ 144000 * (512 - 1) / (36032#16).toNat + (1#1).toNat < 2048 := by decide

theorem witness_ValidFrameLengthIsBounded :
    (1 ≤ 1 ∧ 1 ≤ 48000 ∧ 48000 ≤ 48000) ∧ parse 0xFFFBEA00#32 = .valid ⟨320, 32000, 1#1⟩ := by decide

/-- MR3: the last four bytes of a source. -/
theorem witness_HeaderReadIsBigEndian :
    8 + 4 ≤ (inPhase .walk 12 8 0 (sourceAt 8 [0x18#8, 0x19#8, 0x1A#8, 0x1B#8])).size ∧
      ReadServed (inPhase .walk 12 8 0 (sourceAt 8 [0x18#8, 0x19#8, 0x1A#8, 0x1B#8])) 8 4
        (four 0x18#8 0x19#8 0x1A#8 0x1B#8) := ⟨by decide, by decide, by decide⟩

/-- Ten bytes of a tag, TG2. -/
def tagBytes : List Byte := [0x49#8, 0x44#8, 0x33#8, 0x03#8, 0x00#8, 0x00#8, 0x00#8, 0x00#8, 0x00#8, 0x00#8]

theorem witness_TagskipGivesThePositionAfterATag :
    (inPhase .idle 9 0 0 []).size - 0 < 10 ∧
      (10 ≤ (inPhase .idle 10 0 0 (sourceAt 0 tagBytes)).size - 0 ∧
        ReadServed (inPhase .idle 10 0 0 (sourceAt 0 tagBytes)) 0 10 (fun k => tagBytes.getD k 0#8)) ∧
      10 ≤ (inPhase .idle 10 0 0 []).size - 0 ∧ ReadFails (inPhase .idle 10 0 0 []) 0 10 :=
  ⟨by decide, ⟨by decide, by decide, by decide⟩, by decide, .inr (.inr ⟨by decide, 0, by decide⟩)⟩

theorem witness_TagStepSkipsALeadingTag :
    ((inPhase .tag 9 0 0 []).phase = .tag ∧ (inPhase .tag 9 0 0 []).size - 0 < 10) ∧
      ((inPhase .tag 10 0 0 (sourceAt 0 tagBytes)).phase = .tag ∧
        10 ≤ (inPhase .tag 10 0 0 (sourceAt 0 tagBytes)).size - (inPhase .tag 10 0 0 (sourceAt 0 tagBytes)).pos ∧
        ReadServed (inPhase .tag 10 0 0 (sourceAt 0 tagBytes)) 0 10 (fun k => tagBytes.getD k 0#8)) ∧
      (inPhase .tag 10 0 0 []).phase = .tag ∧ 10 ≤ (inPhase .tag 10 0 0 []).size - (inPhase .tag 10 0 0 []).pos ∧
      ReadFails (inPhase .tag 10 0 0 []) 0 10 :=
  ⟨⟨rfl, by decide⟩, ⟨rfl, by decide, by decide, by decide⟩, rfl, by decide, .inr (.inr ⟨by decide, 0, by decide⟩)⟩

theorem witness_TagElementIsSkippedNotCounted :
    ((inPhase .tag 10 0 0 []).phase = .tag ∧ 10 ≤ (inPhase .tag 10 0 0 []).size - (inPhase .tag 10 0 0 []).pos) ∧
      ((inPhase .tag 9 0 0 []).phase = .tag ∧ (inPhase .tag 9 0 0 []).size - (inPhase .tag 9 0 0 []).pos < 10) ∧
      (inPhase .walk 10 0 0 []).phase ≠ .tag := by decide

/-- A META step: the guard, the two failed reads, an invalid word, a frame one byte short (M3), one that fits exactly
(M4). -/
def metaAt (size : Nat) (m : List Byte) : State := inPhase .metadata size 0 0 (frameSource m)

theorem served_hdr417 (size : Nat) (m : List Byte) : ReadServed (metaAt size m) 0 4 hdr417 := by
  refine ⟨rfl, fun k hk => ?_⟩
  match k, hk with
  | 0, _ => rfl
  | 1, _ => rfl
  | 2, _ => rfl
  | 3, _ => rfl

theorem witness_meta_guard : (metaAt 43 []).phase = .metadata ∧ (metaAt 43 []).size - (metaAt 43 []).pos < 44 := by decide

theorem witness_meta_first_read_fails : (inPhase .metadata 44 0 0 []).phase = .metadata ∧
    44 ≤ (inPhase .metadata 44 0 0 []).size - (inPhase .metadata 44 0 0 []).pos ∧
    ReadFails (inPhase .metadata 44 0 0 []) 0 4 :=
  ⟨rfl, by decide, .inr (.inr ⟨by decide, 0, by decide⟩)⟩

theorem witness_meta_invalid :
    44 ≤ (inPhase .metadata 44 0 0 (sourceAt 0 [0xFF#8, 0xFB#8, 0x00#8, 0x00#8])).size - 0 ∧
      ReadServed (inPhase .metadata 44 0 0 (sourceAt 0 [0xFF#8, 0xFB#8, 0x00#8, 0x00#8])) 0 4 hdrBad ∧
      parse (wordOf hdrBad) = .invalid .bitrate := ⟨by decide, ⟨by decide, by decide⟩, by decide⟩

theorem witness_meta_too_long : 44 ≤ (metaAt 416 []).size - 0 ∧ ReadServed (metaAt 416 []) 0 4 hdr417 ∧
    parse (wordOf hdr417) = .valid ⟨128, 44100, 0#1⟩ ∧ (metaAt 416 []).size - 0 < headerLength ⟨128, 44100, 0#1⟩ :=
  ⟨by decide, served_hdr417 _ _, by decide, by decide⟩

theorem witness_meta_second_read_fails : 44 ≤ (metaAt 417 []).size - 0 ∧ ReadServed (metaAt 417 []) 0 4 hdr417 ∧
    parse (wordOf hdr417) = .valid ⟨128, 44100, 0#1⟩ ∧ headerLength ⟨128, 44100, 0#1⟩ ≤ (metaAt 417 []).size - 0 ∧
    ReadFails { metaAt 417 [] with port := (metaAt 417 []).port.tail } (0 + 36) 4 :=
  ⟨by decide, served_hdr417 _ _, by decide, by decide, .inr (.inr ⟨by decide, 0, by decide⟩)⟩

theorem witness_meta_marker :
    44 ≤ (metaAt 417 [0x58#8, 0x69#8, 0x6E#8, 0x67#8]).size - 0 ∧
    ReadServed (metaAt 417 [0x58#8, 0x69#8, 0x6E#8, 0x67#8]) 0 4 hdr417 ∧
    parse (wordOf hdr417) = .valid ⟨128, 44100, 0#1⟩ ∧
    headerLength ⟨128, 44100, 0#1⟩ ≤ (metaAt 417 [0x58#8, 0x69#8, 0x6E#8, 0x67#8]).size - 0 ∧
    ReadServed { metaAt 417 [0x58#8, 0x69#8, 0x6E#8, 0x67#8] with
                 port := (metaAt 417 [0x58#8, 0x69#8, 0x6E#8, 0x67#8]).port.tail } (0 + 36) 4 xing :=
  ⟨by decide, served_hdr417 _ _, by decide, by decide, by decide, by decide⟩

theorem witness_MetaskipGivesThePositionAfterAStatisticsFrame :
    ∃ (s : State) (b m : Nat → Byte) (f : FrameHeader), 44 ≤ s.size - 0 ∧ ReadServed s 0 4 b ∧
      parse (wordOf b) = .valid f ∧ headerLength f ≤ s.size - 0 ∧
      ReadServed { s with port := s.port.tail } (0 + 36) 4 m := ⟨_, _, _, _, witness_meta_marker⟩

theorem witness_MetaStepSkipsAtMostOneStatisticsFrame :
    ∃ (s : State) (b m : Nat → Byte) (f : FrameHeader), s.phase = .metadata ∧ 44 ≤ s.size - 0 ∧ ReadServed s 0 4 b ∧
      parse (wordOf b) = .valid f ∧ headerLength f ≤ s.size - 0 ∧
      ReadServed { s with port := s.port.tail } (0 + 36) 4 m :=
  ⟨metaAt 417 [0x58#8, 0x69#8, 0x6E#8, 0x67#8], hdr417, xing, _, rfl, witness_meta_marker⟩

/-- In each clause the frame of 417 bytes, at the boundary. -/
theorem witness_StatisticsFramesAreSkippedOnce :
    Instr.wf (.metaVbr 1#1 9#4 0#2 0#1 0#9) = true ∧ Instr.wf (.metaCbr 1#1 9#4 0#2 0#1 0#9) = true ∧
      ((metaAt 417 []).phase = .metadata ∧ 44 ≤ (metaAt 417 []).size - 0 ∧ 417 ≤ (metaAt 417 []).size - 0) ∧
      (44 ≤ (metaAt 416 []).size - 0 ∧ (metaAt 416 []).size - 0 < 417) ∧ (metaAt 43 []).size - 0 < 44 ∧
      ((inPhase .walk 417 0 0 []).phase = .walk ∧ 417 ≤ (inPhase .walk 417 0 0 []).size - 0) ∧
      (4 ≤ (inPhase .walk 4 0 0 []).size - 0 ∧ (inPhase .walk 4 0 0 []).size - 0 < 417) ∧
      (inPhase .walk 3 0 0 []).size - 0 < 4 ∧
      ((inPhase .tag 4 0 0 []).phase ≠ .metadata ∧ (inPhase .tag 4 0 0 []).phase ≠ .walk) := by decide

/-- WALK at offset 0 of a source that begins with a header of 417 bytes. -/
def walkAt (size : Nat) : State := inPhase .walk size 0 0 (frameSource [])

theorem served_walk (size : Nat) : ReadServed (walkAt size) 0 4 hdr417 := by
  refine ⟨rfl, fun k hk => ?_⟩
  match k, hk with
  | 0, _ => rfl
  | 1, _ => rfl
  | 2, _ => rfl
  | 3, _ => rfl

theorem witness_WalkStepStopsOrCounts :
    ((walkAt 3).phase = .walk ∧ (walkAt 3).size - 0 < 4) ∧
      (4 ≤ (inPhase .walk 4 0 0 []).size - 0 ∧ ReadFails (inPhase .walk 4 0 0 []) 0 4) ∧
      (4 ≤ (inPhase .walk 4 0 0 (sourceAt 0 [0xFF#8, 0xFB#8, 0x00#8, 0x00#8])).size - 0 ∧
        ReadServed (inPhase .walk 4 0 0 (sourceAt 0 [0xFF#8, 0xFB#8, 0x00#8, 0x00#8])) 0 4 hdrBad ∧
        parse (wordOf hdrBad) = .invalid .bitrate) ∧
      (ReadServed (walkAt 416) 0 4 hdr417 ∧ parse (wordOf hdr417) = .valid ⟨128, 44100, 0#1⟩ ∧
        (walkAt 416).size - 0 < headerLength ⟨128, 44100, 0#1⟩) ∧
      ReadServed (walkAt 417) 0 4 hdr417 ∧ headerLength ⟨128, 44100, 0#1⟩ ≤ (walkAt 417).size - 0 :=
  ⟨⟨rfl, by decide⟩, ⟨by decide, .inr (.inr ⟨by decide, 0, by decide⟩)⟩,
    ⟨by decide, ⟨by decide, by decide⟩, by decide⟩, ⟨served_walk _, by decide, by decide⟩, served_walk _, by decide⟩

theorem witness_InternalStepsWaitForTheirPhase :
    (walkAt 4).phase ≠ .tag ∧ (walkAt 4).phase ≠ .metadata ∧ (metaAt 4 []).phase ≠ .walk := by decide

theorem witness_AudioFramesAreCountedAndSteppedOver :
    Instr.frameBits? (.frameB9S0 1#1 0#1 0#9) = some ⟨1#1, 9#4, 0#2, 0#1, 0#9⟩ ∧ (walkAt 417).phase = .walk ∧
      417 ≤ (walkAt 417).size - 0 ∧ (4 ≤ (walkAt 416).size - 0 ∧ (walkAt 416).size - 0 < 417) ∧
      (walkAt 3).size - 0 < 4 ∧ Instr.frameBits? .frame128p = some ⟨1#1, 9#4, 0#2, 1#1, 0#9⟩ := by decide

theorem witness_AudioFramesAreLeftByTheMetadataSkip :
    Instr.frameBits? (.frameB9S0 1#1 0#1 0#9) = some ⟨1#1, 9#4, 0#2, 0#1, 0#9⟩ ∧ (metaAt 417 []).phase = .metadata ∧
      (44 ≤ (metaAt 417 []).size - 0 ∧ 417 ≤ (metaAt 417 []).size - 0) ∧
      (44 ≤ (metaAt 416 []).size - 0 ∧ (metaAt 416 []).size - 0 < 417) ∧ (metaAt 43 []).size - 0 < 44 ∧
      (State.reset.phase ≠ .metadata ∧ State.reset.phase ≠ .walk) := by decide

theorem witness_InvalidWordsEndThePassWithTheirCause :
    Instr.invalidCause? (.invalidBitrateFree 1#1 0#12) = some .bitrate ∧
      ((walkAt 4).phase = .walk ∧ 4 ≤ (walkAt 4).size - 0) ∧ (walkAt 3).size - 0 < 4 ∧
      ((metaAt 44 []).phase = .metadata ∧ 44 ≤ (metaAt 44 []).size - 0) ∧ (metaAt 43 []).size - 0 < 44 ∧
      (State.reset.phase ≠ .walk ∧ State.reset.phase ≠ .metadata) := by decide

theorem witness_StartBeginsAPass : State.reset.phase = .idle ∧ (inPhase .done 0 0 0 []).phase = .done ∧
    (inPhase .fault 0 0 0 []).phase = .fault ∧ 4 ≤ 4 ∧ 3 < 4 := by decide

theorem witness_AbortAbandonsThePass :
    ({ walkAt 417 with host := [.abort] } : State).host = .abort :: [] ∧
      ({ walkAt 417 with host := [.abort] } : State).phase = .walk ∧
      State.reset.phase = .idle ∧ State.reset.host = [] := by decide

theorem witness_CommandsInTheWrongPhaseAreIgnored : (walkAt 417).busy = true ∧ State.reset.busy = false ∧
    ({ walkAt 417 with host := [.abortStart 60] } : State).host = .abortStart 60 :: [] := by decide

theorem witness_HardwareResetAbandonsThePass :
    ({ walkAt 417 with host := [.hardwareReset] } : State).host = .hardwareReset :: [] := by decide

theorem witness_QuiescentPhasesHoldTheirRegisters : State.reset.phase = .idle ∧ State.reset.host = [] ∧
    ({ State.reset with host := [.quiet] } : State).host = .quiet :: [] := by decide

/-- The four places at which a read can fail, then FAULT itself. -/
theorem witness_FailedReadTakesTheFaultEntry :
    ((inPhase .tag 10 0 0 []).host = [] ∧ (inPhase .tag 10 0 0 []).phase = .tag ∧
        10 ≤ (inPhase .tag 10 0 0 []).size - 0 ∧ ReadFails (inPhase .tag 10 0 0 []) 0 10) ∧
      ((inPhase .metadata 44 0 0 []).phase = .metadata ∧ ReadFails (inPhase .metadata 44 0 0 []) 0 4) ∧
      (ReadServed (metaAt 417 []) 0 4 hdr417 ∧
        ReadFails { metaAt 417 [] with port := (metaAt 417 []).port.tail } (0 + 36) 4) ∧
      ((inPhase .walk 4 0 0 []).phase = .walk ∧ 4 ≤ (inPhase .walk 4 0 0 []).size - 0 ∧
        ReadFails { inPhase .walk 4 0 0 [] with port := [.short 3] } 0 4) ∧
      ((inPhase .fault 4 0 0 []).phase = .fault ∧ (inPhase .fault 4 0 0 []).host = []) ∧
      ({ inPhase .fault 4 0 0 [] with host := [.start 4] } : State).host = .start 4 :: [] :=
  ⟨⟨rfl, rfl, by decide, .inr (.inr ⟨by decide, 0, by decide⟩)⟩, ⟨rfl, .inr (.inr ⟨by decide, 0, by decide⟩)⟩,
    ⟨served_hdr417 _ _, witness_meta_second_read_fails.2.2.2.2⟩,
    ⟨rfl, by decide, .inr (.inl ⟨3, by decide, rfl⟩)⟩, ⟨rfl, rfl⟩, rfl⟩

/-- The four places, each at its guard; in META the marker's read after a served header. -/
theorem witness_UnansweredReadBlocksThePass :
    (NoCommand { inPhase .tag 10 0 0 [] with port := [.silent] } ∧
        10 ≤ (inPhase .tag 10 0 0 []).size - 0 ∧ ReadSilent { inPhase .tag 10 0 0 [] with port := [.silent] }) ∧
      (44 ≤ (inPhase .metadata 44 0 0 []).size - 0 ∧
        ReadSilent { inPhase .metadata 44 0 0 [] with port := [.silent] }) ∧
      (ReadServed { metaAt 417 [] with port := [.serve, .silent] } 0 4 hdr417 ∧
        parse (wordOf hdr417) = .valid ⟨128, 44100, 0#1⟩ ∧ headerLength ⟨128, 44100, 0#1⟩ ≤ (metaAt 417 []).size - 0 ∧
        ReadSilent { metaAt 417 [] with port := [.serve, .silent].tail }) ∧
      4 ≤ (inPhase .walk 4 0 0 []).size - 0 ∧ ReadSilent { inPhase .walk 4 0 0 [] with port := [.silent] } :=
  ⟨⟨.inl rfl, by decide, rfl⟩, ⟨by decide, rfl⟩, ⟨⟨rfl, (served_hdr417 417 []).2⟩, by decide, by decide, rfl⟩,
    by decide, rfl⟩

/-- A boundary at which the host is quiet, with a command still to come. -/
def quietWalk : State := { walkAt 417 with host := [.quiet, .abort] }

theorem witness_no_command : NoCommand (walkAt 417) ∧ NoCommand quietWalk ∧
    ¬NoCommand { walkAt 417 with host := [.abort] } :=
  ⟨.inl rfl, .inr ⟨_, rfl⟩, fun h => h.elim (fun e => by cases e) fun ⟨_, e⟩ => by cases e⟩

theorem witness_QuietBoundariesAreStepsWithoutCommand : quietWalk.host = .quiet :: [.abort] ∧
    nextInstr { quietWalk with host := [.abort] } = some (.frameB9S0 1#1 0#1 0#9) := by decide

theorem test_quiet_boundary : see (fun s => (s.cnt, s.host)) (step quietWalk) = some (1, [.abort]) := by decide

/-- The smallest sources each clause allows. -/
theorem witness_StepRunsTheDecodedInstruction :
    (ReadServed (inPhase .tag 10 0 0 (sourceAt 0 tagBytes)) 0 10 (fun k => tagBytes.getD k 0#8) ∧
        decode .tag ((List.range 10).map fun k => tagBytes.getD k 0#8) =
          .ok (.tag 3#8 0#8 0#8 0#8 0#8 0#8 0#8)) ∧
      (ReadServed (walkAt 4) 0 4 hdr417 ∧ decode .walk ((List.range 4).map hdr417) = .ok (.frameB9S0 1#1 0#1 0#9)) ∧
      decode .metadata ((List.range 4).map hdr417 ++ List.replicate 32 0#8 ++ (List.range 4).map xing) =
          .ok (.metaVbr 1#1 9#4 0#2 0#1 0#9) ∧
      (walkAt 4).host = [] ∧ nextInstr (walkAt 4) = some (.frameB9S0 1#1 0#1 0#9) :=
  ⟨⟨⟨by decide, by decide⟩, by decide⟩, ⟨served_walk _, by decide⟩, by decide, rfl, by decide⟩

theorem witness_ElementsAgreeWithTheStepOfTheirPhase :
    nextInstr (walkAt 417) = some (.frameB9S0 1#1 0#1 0#9) ∧
      nextInstr (metaAt 417 [0x58#8, 0x69#8, 0x6E#8, 0x67#8]) = some (.metaVbr 1#1 9#4 0#2 0#1 0#9) ∧
      nextInstr (inPhase .tag 9 0 0 []) = some .tagStep := by decide

/-- A state of a running pass that meets the invariant. -/
theorem inv_walkAt : Inv (walkAt 417) where
  memory := by decide
  posInSource := by decide
  countedBytes := by decide
  startOfPass := by decide
  beforeWalk := by decide
  stopReason := by decide
  causeOnlyIfInvalid := by decide
  readsInside := fun _ r hr => (by cases hr)

theorem witness_walk_goes_on : ∃ t, step (walkAt 417) = .next t ∧ t.cnt = 1 :=
  next_of_see (f := State.cnt) (by decide)

theorem witness_EveryStepKeepsTheInvariant : ∃ s t, Inv s ∧ step s = .next t :=
  let ⟨t, h, _⟩ := witness_walk_goes_on
  ⟨_, t, inv_walkAt, h⟩

theorem witness_PositionIsMonotoneAndInside : ∃ s t, Inv s ∧ NoCommand s ∧ s.busy = true ∧ step s = .next t :=
  let ⟨t, h, _⟩ := witness_walk_goes_on
  ⟨_, t, inv_walkAt, .inl rfl, rfl, h⟩

theorem witness_PhasesComeInOrder :
    (∃ t, step (inPhase .tag 9 0 0 []) = .next t ∧ t.phase = .metadata) ∧
      (∃ t, step (metaAt 43 []) = .next t ∧ t.phase = .walk) ∧ (∃ t, step (walkAt 3) = .next t ∧ t.phase = .done) ∧
      ∃ t, step State.reset = .next t ∧ t.phase = .idle :=
  ⟨next_of_see (f := State.phase) (by decide), next_of_see (f := State.phase) (by decide),
    next_of_see (f := State.phase) (by decide), next_of_see (f := State.phase) (by decide)⟩

theorem witness_OnlyTheWalkerCounts :
    (∃ t, step (walkAt 417) = .next t ∧ t.cnt = 1) ∧
      (∃ t, step (inPhase .walk 4 0 0 (sourceAt 0 [0xFF#8, 0xFB#8, 0x00#8, 0x00#8])) = .next t ∧
        t.invCause = .bitrate) ∧
      ∃ t, step (walkAt 3) = .next t ∧ t.stop = .endOfSource :=
  ⟨witness_walk_goes_on, next_of_see (f := State.invCause) (by decide), next_of_see (f := State.stop) (by decide)⟩

theorem witness_StopsArePrecise :
    (∃ t, step (walkAt 3) = .next t ∧ t.phase = .done) ∧ (∃ t, step (walkAt 416) = .next t ∧ t.phase = .done) ∧
      ∃ t, step (inPhase .walk 4 0 0 (sourceAt 0 [0xFF#8, 0xFB#8, 0x00#8, 0x00#8])) = .next t ∧ t.phase = .done :=
  ⟨next_of_see (f := State.phase) (by decide), next_of_see (f := State.phase) (by decide),
    next_of_see (f := State.phase) (by decide)⟩

theorem witness_ByteSourceIsNeverWritten :
    (∃ t, exec (.flen 128#9 44100#16 0#1) (walkAt 417) = .next t) ∧ ∃ t, step (walkAt 417) = .next t :=
  ⟨⟨_, rfl⟩, let ⟨t, h, _⟩ := witness_walk_goes_on; ⟨t, h⟩⟩

theorem witness_StepsReadOnlyWhatTheyGuard :
    (∃ t, step (inPhase .tag 10 0 0 (sourceAt 0 tagBytes)) = .next t ∧ t.reads = [⟨0, 10⟩]) ∧
      (∃ t, step (walkAt 4) = .next t ∧ t.reads = [⟨0, 4⟩]) ∧
      (∃ t, step (metaAt 43 []) = .next t ∧ t.reads = []) ∧
      (∃ t, step (metaAt 417 [0x58#8, 0x69#8, 0x6E#8, 0x67#8]) = .next t ∧ t.reads = [⟨36, 4⟩, ⟨0, 4⟩]) ∧
      ∃ t, step State.reset = .next t ∧ t.reads = [] :=
  ⟨next_of_see (f := State.reads) (by decide), next_of_see (f := State.reads) (by decide),
    next_of_see (f := State.reads) (by decide), next_of_see (f := State.reads) (by decide),
    next_of_see (f := State.reads) (by decide)⟩

/-- A whole source of four bytes, at the Walker. -/
def smallWalk : State := inPhase .walk 4 0 0 (sourceAt 0 [0xFF#8, 0xFB#8, 0x90#8, 0x00#8])

theorem witness_WholeSourceNeverFaults : Inv smallWalk ∧ NoCommand smallWalk ∧ smallWalk.phase ≠ .fault ∧
    PortServes smallWalk ∧ SourceIs smallWalk hdr417 smallWalk.size :=
  ⟨{ memory := by decide
     posInSource := by decide
     countedBytes := by decide
     startOfPass := by decide
     beforeWalk := by decide
     stopReason := by decide
     causeOnlyIfInvalid := by decide
     readsInside := fun _ r hr => (by cases hr) }, .inl rfl, by decide, fun a ha => (by cases ha), by unfold SourceIs; decide⟩

/-- In each phase a source that differs in an unread byte: behind the guard, in the frame's body, in the marker of a
frame that does not fit. -/
theorem witness_StepsDoNotSeeUnreadBytes :
    (NoCommand (walkAt 417) ∧ (∀ k, k < 4 →
        (frameSource [0xAA#8]).read ((walkAt 417).pos + k) = (walkAt 417).mem.read ((walkAt 417).pos + k)) ∧
        frameSource [0xAA#8] ≠ (walkAt 417).mem) ∧
      ¬10 ≤ (inPhase .tag 9 0 0 []).size - 0 ∧ ¬4 ≤ (walkAt 3).size - 0 ∧ ¬44 ≤ (metaAt 43 []).size - 0 ∧
      ((∀ k, k < 4 →
        (frameSource [0xAA#8]).read ((metaAt 416 []).pos + k) = (metaAt 416 []).mem.read ((metaAt 416 []).pos + k)) ∧
        ¬headerLength ⟨128, 44100, 0#1⟩ ≤ (metaAt 416 []).size - 0 ∧ frameSource [0xAA#8] ≠ (metaAt 416 []).mem) :=
  ⟨⟨.inl rfl, by decide, by decide⟩, by decide, by decide, by decide, by decide, by decide, by decide⟩

theorem witness_EveryPassEnds : State.reset.busy = false ∧
    PortAnswers { State.reset with port := [.serve, .error, .short 3] } := ⟨rfl, by unfold PortAnswers; decide⟩

/-- A whole source of four bytes before a pass. -/
def smallIdle : State := { State.reset with mem := sourceAt 0 [0xFF#8, 0xFB#8, 0x90#8, 0x00#8] }

theorem witness_PassCountsWhatCountFramesCounts : smallIdle.busy = false ∧ PortServes smallIdle ∧
    SourceIs smallIdle hdr417 4 := ⟨rfl, fun a ha => (by cases ha), by unfold SourceIs; decide⟩

theorem witness_CountframesInstructionIsTheWholePass : (smallIdle.busy = false ∧ PortServes smallIdle ∧
    SourceIs smallIdle hdr417 4) ∧ PortAnswers { State.reset with port := [.error] } ∧ (walkAt 417).busy = true :=
  ⟨witness_PassCountsWhatCountFramesCounts, by unfold PortAnswers; decide, rfl⟩

theorem witness_PassDependsOnNothingBeforeIt :
    State.reset.busy = false ∧ (inPhase .done 1481 1477 3 []).busy = false ∧
      State.reset.mem = (inPhase .done 1481 1477 3 []).mem ∧ State.reset.port = (inPhase .done 1481 1477 3 []).port ∧
      ∃ t, exec (.countframes 3) State.reset = .next t ∧ t.cnt = 0 :=
  ⟨rfl, rfl, rfl, rfl, next_of_see (f := State.cnt) (by decide)⟩

theorem witness_ShortSourceCountsZero : State.reset.busy = false ∧ 3 < 4 := by decide

theorem witness_NoParseableHeaderCountsZero :
    ({ State.reset with mem := sourceAt 0 [0#8, 0#8, 0#8, 0#8] } : State).busy = false ∧
      PortServes { State.reset with mem := sourceAt 0 [0#8, 0#8, 0#8, 0#8] } ∧
      SourceIs { State.reset with mem := sourceAt 0 [0#8, 0#8, 0#8, 0#8] } (fun _ => 0#8) 4 ∧
      ∀ f, parse (srcWord (fun _ => 0#8) (tagSkipOf (fun _ => 0#8) 4 0)) ≠ .valid f :=
  ⟨rfl, fun a ha => (by cases ha), by unfold SourceIs; decide, fun f h => by
    rw [show parse (srcWord (fun _ => 0#8) (tagSkipOf (fun _ => 0#8) 4 0)) = .invalid .sync by decide] at h
    cases h⟩

theorem witness_FrameLinesExpandToFrames : bitrateKbps 14#4 = some 320 ∧ sampleRateHz 2#2 = some 32000 := by decide

/-- MR4: ten bytes at offset 2. -/
def portState : State :=
  { State.reset with size := 12, mem := sourceAt 0 ((List.range 12).map fun k => BitVec.ofNat 8 (0x10 + k)) }

theorem witness_ReadPortCarriesTheBytesInItsLanes :
    ReadServed portState 2 10 (fun k => BitVec.ofNat 8 (0x12 + k)) ∧
      (∃ a, portAnswer portState 2 10 = some a ∧ a.err = false) ∧ ∃ bs t, memRead 2 10 portState = .ok bs t :=
  ⟨⟨by decide, by decide⟩, ⟨_, rfl, rfl⟩, ⟨_, _, rfl⟩⟩

-- MR4 on the port: `rd_n` is 10, lane 0 in bits 7:0, lane 9 in bits 79:72
theorem test_port_lanes :
    (portAnswer portState 2 10).map (fun a => (a.n, a.err)) = some (10#4, false) ∧
      (portAnswer portState 2 10).map ReadAnswer.data = some 0x1B1A1918171615141312#80 := by decide

-- MR1 on the port: `rd_n` is 4, lanes 0 to 3
theorem test_port_header :
    (portAnswer portState 0 4).map (fun a => (a.n, a.lanes.take 4)) = some (4#4, [0x10#8, 0x11#8, 0x12#8, 0x13#8]) := by
  decide

end Sys2Proof.Tests
end

section
/-! What the block does, it does without seeing the commands still to come (R13, log entry 10): another list of host
inputs goes through every read, every instruction and the sequencer's step unchanged. -/

namespace Sys2Proof.Machine

open Host

/-- The state with another list of commands to come. -/
def State.withHost (l : List HostInput) (s : State) : State := { s with host := l }

/-- The result of a part of a step, with another list of commands to come. -/
def Res.withHost {α : Type} (l : List HostInput) : Res α → Res α
  | .ok a s => .ok a (s.withHost l)
  | .ioFail s => .ioFail (s.withHost l)
  | .silent => .silent
  | .outside => .outside

@[simp] theorem withHost_phase (s : State) (l : List HostInput) : (s.withHost l).phase = s.phase := rfl
@[simp] theorem withHost_size (s : State) (l : List HostInput) : (s.withHost l).size = s.size := rfl
@[simp] theorem withHost_pos (s : State) (l : List HostInput) : (s.withHost l).pos = s.pos := rfl
@[simp] theorem withHost_rem (s : State) (l : List HostInput) : (s.withHost l).rem = s.rem := rfl

section
variable (l : List HostInput)

theorem afterRead_withHost (s : State) (off len : Nat) :
    (s.withHost l).afterRead off len = (s.afterRead off len).withHost l := rfl

theorem writeHeader_withHost (s : State) (h : Word) (r : ParseResult) :
    (s.withHost l).writeHeader h r = (s.writeHeader h r).withHost l := by
  cases r <;> rfl

/-! ### Sequencing -/

theorem res_andThen_withHost {α β : Type} (r : Res α) (k : α → State → Res β)
    (hk : ∀ a t, k a (t.withHost l) = (k a t).withHost l) :
    (r.withHost l).andThen k = (r.andThen k).withHost l := by
  cases r with
  | ok a t => exact hk a t
  | ioFail t => rfl
  | silent => rfl
  | outside => rfl

theorem finish_withHost {α : Type} (r : Res α) (k : α → State → State)
    (hk : ∀ a t, k a (t.withHost l) = (k a t).withHost l) :
    (r.withHost l).finish k = outcomeWithHost l (r.finish k) := by
  cases r with
  | ok a t => exact congrArg Outcome.next (hk a t)
  | ioFail t => rfl
  | silent => rfl
  | outside => rfl

theorem andThen_withHost (o : Outcome State Fault Refusal) (k : State → Outcome State Fault Refusal)
    (hk : ∀ t, k (t.withHost l) = outcomeWithHost l (k t)) :
    andThen (outcomeWithHost l o) k = outcomeWithHost l (andThen o k) := by
  cases o with
  | next t => exact hk t
  | fault r => rfl
  | refused r => rfl

theorem endStep_withHost (o : Outcome State Fault Refusal) :
    endStep (outcomeWithHost l o) = outcomeWithHost l (endStep o) := by
  cases o <;> rfl

/-! ### Reads and skips -/

theorem memRead_withHost (off len : Nat) (s : State) :
    memRead off len (s.withHost l) = (memRead off len s).withHost l := by
  by_cases hin : off + len ≤ s.size
  · have ha : portAnswer (s.withHost l) off len = portAnswer s off len := rfl
    rw [memRead_inside off len s hin, memRead_inside off len (s.withHost l) hin, ha]
    cases portAnswer s off len with
    | none => rfl
    | some a =>
      dsimp only
      split <;> rfl
  · rw [memRead_outside off len s (Nat.not_le.1 hin), memRead_outside off len (s.withHost l) (Nat.not_le.1 hin)]
    rfl

theorem memRead32_withHost (off : Nat) (s : State) :
    memRead32 off (s.withHost l) = (memRead32 off s).withHost l := by
  rw [memRead32_eq, memRead32_eq, memRead_withHost]
  refine res_andThen_withHost l _ _ fun bs t => ?_
  split <;> rfl

theorem tagSkip_withHost (pos : Nat) (s : State) : tagSkip pos (s.withHost l) = (tagSkip pos s).withHost l := by
  by_cases hn : s.size - pos < 10
  · rw [tagSkip_near pos s hn, tagSkip_near pos (s.withHost l) hn]
    rfl
  · rw [tagSkip_far pos s (Nat.not_lt.1 hn), tagSkip_far pos (s.withHost l) (Nat.not_lt.1 hn), memRead_withHost]
    refine res_andThen_withHost l _ _ fun bs t => ?_
    dsimp only [withHost_size]
    split
    · split <;> rfl
    · rfl

theorem metaSkipRest_withHost (pos : Nat) (h : Word) (s : State) :
    metaSkipRest pos h (s.withHost l) = (metaSkipRest pos h s).withHost l := by
  unfold metaSkipRest
  cases parse h with
  | invalid c => rfl
  | valid f =>
    simp only [withHost_size, writeHeader_withHost, memRead32_withHost]
    split
    · exact res_andThen_withHost l _ _ fun _ _ => rfl
    · rfl

theorem metaSkip_withHost (pos : Nat) (s : State) : metaSkip pos (s.withHost l) = (metaSkip pos s).withHost l := by
  by_cases hn : s.size - pos < 44
  · rw [metaSkip_near pos s hn, metaSkip_near pos (s.withHost l) hn]
    rfl
  · rw [metaSkip_far pos s (Nat.not_lt.1 hn), metaSkip_far pos (s.withHost l) (Nat.not_lt.1 hn), memRead32_withHost]
    exact res_andThen_withHost l _ _ (metaSkipRest_withHost l pos)

/-! ### Header words -/

theorem walkVerdict_withHost (r : ParseResult) (h : Word) (s : State) :
    walkVerdict r h (s.withHost l) = (walkVerdict r h s).withHost l := by
  cases r with
  | invalid c => rfl
  | valid f =>
    unfold walkVerdict
    rw [apply_ite (State.withHost l)]
    rfl

theorem walkOnHeader_withHost (r : ParseResult) (h : Word) (s : State) :
    walkOnHeader r h (s.withHost l) = (walkOnHeader r h s).withHost l := by
  simp only [walkOnHeader, afterRead_withHost, walkVerdict_withHost]
  rw [apply_ite (State.withHost l)]
  rfl

theorem metaOnHeader_withHost (r : ParseResult) (h : Word) (marked : Bool) (s : State) :
    metaOnHeader r h marked (s.withHost l) = (metaOnHeader r h marked s).withHost l := by
  unfold metaOnHeader
  rw [apply_ite (State.withHost l)]
  cases r with
  | invalid c => rfl
  | valid f =>
    dsimp only
    rw [apply_ite (State.withHost l) (fits (headerLength f) s.rem = true)]
    rfl

theorem headerElement_withHost (r : ParseResult) (h : Word) (s : State) :
    headerElement r h (s.withHost l) = outcomeWithHost l (headerElement r h s) := by
  simp only [headerElement, withHost_phase, walkOnHeader_withHost, metaOnHeader_withHost]
  cases s.phase <;> rfl

theorem markedElement_withHost (h : Word) (s : State) :
    markedElement h (s.withHost l) = outcomeWithHost l (markedElement h s) := by
  simp only [markedElement, withHost_phase, walkOnHeader_withHost, metaOnHeader_withHost]
  cases s.phase <;> rfl

/-! ### Instructions -/

theorem execTag_withHost (ver rev flags s6 s7 s8 s9 : Byte) (s : State) :
    execTag ver rev flags s6 s7 s8 s9 (s.withHost l) = outcomeWithHost l (execTag ver rev flags s6 s7 s8 s9 s) := by
  simp only [execTag, withHost_phase, withHost_rem]
  cases s.phase with
  | tag =>
    rw [apply_ite (outcomeWithHost l)]
    rfl
  | _ => rfl

theorem execTagStep_withHost (s : State) : execTagStep (s.withHost l) = outcomeWithHost l (execTagStep s) := by
  simp only [execTagStep, withHost_phase, withHost_pos, tagSkip_withHost]
  cases s.phase with
  | tag => exact finish_withHost l _ _ fun _ _ => rfl
  | _ => rfl

theorem execMetaStep_withHost (s : State) : execMetaStep (s.withHost l) = outcomeWithHost l (execMetaStep s) := by
  simp only [execMetaStep, withHost_phase, withHost_pos, metaSkip_withHost]
  cases s.phase with
  | metadata => exact finish_withHost l _ _ fun _ _ => rfl
  | _ => rfl

theorem execWalkStep_withHost (s : State) : execWalkStep (s.withHost l) = outcomeWithHost l (execWalkStep s) := by
  simp only [execWalkStep, withHost_phase, withHost_rem, withHost_pos, memRead32_withHost]
  cases s.phase with
  | walk =>
    dsimp only
    split
    · rfl
    · exact finish_withHost l _ _ fun h t => walkVerdict_withHost l (parse h) h t
  | _ => rfl

theorem execStart_withHost (n : Nat) (s : State) : execStart n (s.withHost l) = outcomeWithHost l (execStart n s) := by
  unfold execStart
  rw [apply_ite (outcomeWithHost l)]
  rfl

theorem execAbort_withHost (s : State) : execAbort (s.withHost l) = outcomeWithHost l (execAbort s) := by
  unfold execAbort
  rw [apply_ite (outcomeWithHost l)]
  rfl

theorem execExtract_withHost (v : Word) (startBit width : Nat) (s : State) :
    execExtract v startBit width (s.withHost l) = outcomeWithHost l (execExtract v startBit width s) := by
  unfold execExtract
  cases extract v startBit width <;> rfl

theorem execParse_withHost (h : Word) (s : State) :
    execParse h (s.withHost l) = outcomeWithHost l (execParse h s) := by
  unfold execParse
  cases parse h <;> rfl

theorem execTagskip_withHost (pos : Nat) (s : State) :
    execTagskip pos (s.withHost l) = outcomeWithHost l (execTagskip pos s) := by
  rw [execTagskip, tagSkip_withHost]
  exact finish_withHost l _ _ fun _ _ => rfl

theorem execMetaskip_withHost (pos : Nat) (s : State) :
    execMetaskip pos (s.withHost l) = outcomeWithHost l (execMetaskip pos s) := by
  rw [execMetaskip, metaSkip_withHost]
  exact finish_withHost l _ _ fun _ _ => rfl

theorem walkLoop_withHost (fuel : Nat) (s : State) :
    walkLoop fuel (s.withHost l) = outcomeWithHost l (walkLoop fuel s) := by
  induction fuel generalizing s with
  | zero => rfl
  | succ fuel ih =>
    simp only [walkLoop, execWalkStep_withHost, andThen_withHost l _ _ ih]
    rw [apply_ite (outcomeWithHost l)]
    rfl

theorem execCountframes_withHost (n : Nat) (s : State) :
    execCountframes n (s.withHost l) = outcomeWithHost l (execCountframes n s) := by
  have result : ∀ t : State, Outcome.next { t.withHost l with fout := passResult (t.withHost l) } =
      outcomeWithHost l (.next { t with fout := passResult t }) := fun _ => rfl
  unfold execCountframes
  rw [execStart_withHost, andThen_withHost l _ _ (execTagStep_withHost l), andThen_withHost l _ _ (execMetaStep_withHost l),
    andThen_withHost l _ _ (walkLoop_withHost l _), andThen_withHost l _ _ result]
  rw [apply_ite (outcomeWithHost l)]
  rfl

/-- No instruction sees the commands to come; the rows left to the last case are the header words without a marker. -/
theorem exec_withHost (i : Instr) (s : State) : exec i (s.withHost l) = outcomeWithHost l (exec i s) := by
  cases i with
  | tag ver rev flags s6 s7 s8 s9 => exact execTag_withHost l ver rev flags s6 s7 s8 s9 s
  | metaVbr q bri sri p w => exact markedElement_withHost l _ s
  | metaCbr q bri sri p w => exact markedElement_withHost l _ s
  | start n => exact execStart_withHost l n s
  | abort => exact execAbort_withHost l s
  | tagStep => exact execTagStep_withHost l s
  | metaStep => exact execMetaStep_withHost l s
  | walkStep => exact execWalkStep_withHost l s
  | extract v startBit width => exact execExtract_withHost l v startBit width s
  | parse h => exact execParse_withHost l h s
  | flen kbps hz padding => rfl
  | fits len rem => rfl
  | tagskip pos => exact execTagskip_withHost l pos s
  | metaskip pos => exact execMetaskip_withHost l pos s
  | countframes n => exact execCountframes_withHost l n s
  | _ => exact headerElement_withHost l _ _ s

/-! ### The sequencer -/

theorem nextTag_withHost (s : State) : nextTag (s.withHost l) = nextTag s := by
  simp only [nextTag, withHost_rem, withHost_pos, memRead_withHost]
  cases memRead s.pos Config.tagHdrLen s <;> rfl

theorem nextMeta_withHost (s : State) : nextMeta (s.withHost l) = nextMeta s := by
  simp only [nextMeta, withHost_rem, withHost_pos, memRead32_withHost]
  cases memRead32 s.pos s with
  | ok h t =>
    simp only [Res.withHost, memRead32_withHost]
    cases memRead32 (s.pos + Config.metaOffset) t <;> rfl
  | _ => rfl

theorem nextWalk_withHost (s : State) : nextWalk (s.withHost l) = nextWalk s := by
  simp only [nextWalk, withHost_rem, withHost_pos, memRead32_withHost]
  cases memRead32 s.pos s <;> rfl

theorem nextInstr_withHost (s : State) : nextInstr (s.withHost l) = nextInstr s := by
  simp only [nextInstr, withHost_phase, nextTag_withHost, nextMeta_withHost, nextWalk_withHost]

/-- A step of the sequencer's own fetches the same instruction and does the same, whatever the host asserts later. -/
theorem internalStep_withHost (s : State) : internalStep (s.withHost l) = outcomeWithHost l (internalStep s) := by
  unfold internalStep
  rw [nextInstr_withHost]
  cases nextInstr s with
  | none => rfl
  | some i =>
    dsimp only
    rw [exec_withHost, endStep_withHost]

end

/-! ### Boundaries without a command -/

theorem step_no_input (s : State) (h : s.host = []) : step s = internalStep s := by
  rw [step, boundary, h]

theorem step_quiet (s : State) (rest : List HostInput) (h : s.host = .quiet :: rest) :
    step s = internalStep (s.withHost rest) := by
  rw [step, boundary, h]
  rfl

/-- Settles O59: both boundaries run the sequencer's own step, which does not see the commands to come. -/
theorem quietBoundariesAreStepsWithoutCommand : Obligations.QuietBoundariesAreStepsWithoutCommand := by
  intro s rest h
  calc step s = internalStep ((s.withHost []).withHost rest) := step_quiet s rest h
    _ = outcomeWithHost rest (internalStep (s.withHost [])) := internalStep_withHost rest (s.withHost [])
    _ = outcomeWithHost rest (step (s.withHost [])) := by rw [step_no_input (s.withHost []) rfl]

end Sys2Proof.Machine
end

section
/-! The element the sequencer finds at POS and the pseudocode step of its phase are one step: the rows' verdicts are the
parser's (R82, R85), and the bytes the fetch looks at are the ones the step reads (R80, R162, R163, R165). -/

namespace Sys2Proof.Machine

open Host

/-! ### A word put together again from the slices the decoder cuts it into -/

theorem slice_toNat (h : Word) (lo len : Nat) : (h.extractLsb' lo len).toNat = h.toNat / 2 ^ lo % 2 ^ len := by
  rw [BitVec.extractLsb'_toNat, Nat.shiftRight_eq_div_pow]

theorem syncWord_slices (h : Word) : syncWord (h.extractLsb' 21 11) (h.extractLsb' 0 21) = h := by
  apply BitVec.eq_of_toNat_eq
  simp only [syncWord_toNat, slice_toNat]
  omega

section
variable {h : Word} (hsync : h.extractLsb' 21 11 = Config.syncValue)
include hsync

theorem syncField_top : h.toNat / 2 ^ 21 = 2047 := by
  have e : h.toNat / 2 ^ 21 % 2 ^ 11 = 2047 := by rw [← slice_toNat, hsync]; rfl
  omega

theorem versionWord_slices : versionWord (h.extractLsb' 19 2) (h.extractLsb' 0 19) = h := by
  have top := syncField_top hsync
  apply BitVec.eq_of_toNat_eq
  simp only [versionWord_toNat, slice_toNat]
  omega

variable (hver : h.extractLsb' 19 2 = Config.versionMpeg1)
include hver

theorem versionField_top : h.toNat / 2 ^ 19 = 2047 * 2 ^ 2 + 3 := by
  have top := syncField_top hsync
  have e : h.toNat / 2 ^ 19 % 2 ^ 2 = 3 := by rw [← slice_toNat, hver]; rfl
  omega

theorem layerWord_slices : layerWord (h.extractLsb' 17 2) (h.extractLsb' 0 17) = h := by
  have top := versionField_top hsync hver
  apply BitVec.eq_of_toNat_eq
  simp only [layerWord_toNat, slice_toNat]
  omega

variable (hlayer : h.extractLsb' 17 2 = Config.layerIII)
include hlayer

theorem layerField_top : h.toNat / 2 ^ 17 = (2047 * 2 ^ 2 + 3) * 2 ^ 2 + 1 := by
  have top := versionField_top hsync hver
  have e : h.toNat / 2 ^ 17 % 2 ^ 2 = 1 := by rw [← slice_toNat, hlayer]; rfl
  omega

theorem bitrateWord_slices : bitrateWord (h.extractLsb' 16 1) (h.extractLsb' 12 4) (h.extractLsb' 0 12) = h := by
  have top := layerField_top hsync hver hlayer
  apply BitVec.eq_of_toNat_eq
  simp only [bitrateWord_toNat, slice_toNat]
  omega

theorem sampleRateWord_slices (hsri : h.extractLsb' 10 2 = 3#2) :
    sampleRateWord (h.extractLsb' 16 1) (h.extractLsb' 12 4) (h.extractLsb' 0 10) = h := by
  have top := layerField_top hsync hver hlayer
  have e : h.toNat / 2 ^ 10 % 2 ^ 2 = 3 := by rw [← slice_toNat, hsri]; rfl
  apply BitVec.eq_of_toNat_eq
  simp only [sampleRateWord_toNat, slice_toNat]
  omega

theorem frameWord_slices :
    frameWord ⟨h.extractLsb' 16 1, h.extractLsb' 12 4, h.extractLsb' 10 2, h.extractLsb' 9 1, h.extractLsb' 0 9⟩ = h := by
  have top := layerField_top hsync hver hlayer
  apply BitVec.eq_of_toNat_eq
  simp only [frameWord_toNat, slice_toNat]
  omega

end

/-! ### The meaning of a row that is a header word -/

/-- A frame row runs as its word, with the verdict the parser gives that word. -/
theorem exec_of_frameBits (i : Instr) (b : FrameBits) (s : State) (hf : i.frameBits? = some b) :
    exec i s = headerElement (parse (frameWord b)) (frameWord b) s := by
  have row : ∃ kbps hz, bitrateKbps b.bri = some kbps ∧ sampleRateHz b.sri = some hz ∧
      exec i s = headerElement (.valid ⟨kbps, hz, b.p⟩) (frameWord b) s := by
    cases i <;> cases hf <;> exact ⟨_, _, rfl, rfl, rfl⟩
  obtain ⟨kbps, hz, hk, hs, e⟩ := row
  rw [e, parse_frameWord b kbps hz hk hs]

/-- An invalid row runs as its word, with the row's cause as the verdict. -/
theorem exec_of_invalidCause (i : Instr) (c : Cause) (h : Word) (s : State) (hc : i.invalidCause? = some c)
    (hw : i.headerWord = some h) : exec i s = headerElement (.invalid c) h s := by
  cases i <;> cases hc <;> cases hw <;> rfl

/-! ### The row the decoder finds -/

/-- A row is a word's own: the row holds the word, and is a frame row or the invalid row of the parser's cause. -/
def RowOf (h : Word) (i : Instr) : Prop :=
  (∃ c, i.invalidCause? = some c ∧ i.headerWord = some h ∧ parse h = .invalid c) ∨
    ∃ b, i.frameBits? = some b ∧ frameWord b = h

/-- Running a word's own row is running the word with the parser's verdict. -/
theorem exec_of_rowOf {h : Word} {i : Instr} (s : State) (hr : RowOf h i) :
    exec i s = headerElement (parse h) h s := by
  rcases hr with ⟨c, hc, hw, hp⟩ | ⟨b, hf, rfl⟩
  · rw [hp]
    exact exec_of_invalidCause i c h s hc hw
  · exact exec_of_frameBits i b s hf

section
variable {h : Word} {i : Instr}

theorem rowOf_sync (hs : h.extractLsb' 21 11 ≠ Config.syncValue) (hc : i.invalidCause? = some .sync)
    (hw : i.headerWord = some (syncWord (h.extractLsb' 21 11) (h.extractLsb' 0 21))) : RowOf h i :=
  .inl ⟨.sync, hc, hw.trans (congrArg some (syncWord_slices h)), by rw [parse_eq, if_pos hs]⟩

variable (hsync : h.extractLsb' 21 11 = Config.syncValue)
include hsync

theorem rowOf_version {v : BitVec 2} (hv : h.extractLsb' 19 2 = v) (hne : v ≠ Config.versionMpeg1)
    (hc : i.invalidCause? = some .version) (hw : i.headerWord = some (versionWord v (h.extractLsb' 0 19))) :
    RowOf h i := by
  subst hv
  exact .inl ⟨.version, hc, hw.trans (congrArg some (versionWord_slices hsync)),
    by rw [parse_eq, if_neg (not_not.2 hsync), if_pos hne]⟩

variable (hver : h.extractLsb' 19 2 = Config.versionMpeg1)
include hver

theorem rowOf_layer {l : BitVec 2} (hl : h.extractLsb' 17 2 = l) (hne : l ≠ Config.layerIII)
    (hc : i.invalidCause? = some .layer) (hw : i.headerWord = some (layerWord l (h.extractLsb' 0 17))) :
    RowOf h i := by
  subst hl
  exact .inl ⟨.layer, hc, hw.trans (congrArg some (layerWord_slices hsync hver)),
    by rw [parse_eq, if_neg (not_not.2 hsync), if_neg (not_not.2 hver), if_pos hne]⟩

variable (hlayer : h.extractLsb' 17 2 = Config.layerIII)
include hlayer

theorem rowOf_bitrate {b : BitVec 4} (hb : h.extractLsb' 12 4 = b) (hnone : bitrateKbps b = none)
    (hc : i.invalidCause? = some .bitrate)
    (hw : i.headerWord = some (bitrateWord (h.extractLsb' 16 1) b (h.extractLsb' 0 12))) : RowOf h i := by
  subst hb
  exact .inl ⟨.bitrate, hc, hw.trans (congrArg some (bitrateWord_slices hsync hver hlayer)),
    by rw [parse_eq, if_neg (not_not.2 hsync), if_neg (not_not.2 hver), if_neg (not_not.2 hlayer), hnone]⟩

theorem rowOf_sampleRate (h0 : h.extractLsb' 12 4 ≠ 0#4) (h15 : h.extractLsb' 12 4 ≠ 15#4)
    (hsri : h.extractLsb' 10 2 = 3#2) (hc : i.invalidCause? = some .sampleRate)
    (hw : i.headerWord = some (sampleRateWord (h.extractLsb' 16 1) (h.extractLsb' 12 4) (h.extractLsb' 0 10))) :
    RowOf h i := by
  have hp : parse h = .invalid .sampleRate := by
    obtain ⟨kbps, hk⟩ := Option.ne_none_iff_exists'.1 fun hn => ((bitrateKbps_none _).1 hn).elim h0 h15
    rw [parse_eq, if_neg (not_not.2 hsync), if_neg (not_not.2 hver), if_neg (not_not.2 hlayer), hk,
      (sampleRateHz_none _).2 hsri]
  exact .inl ⟨.sampleRate, hc, hw.trans (congrArg some (sampleRateWord_slices hsync hver hlayer hsri)), hp⟩

theorem rowOf_frame (hv : validIndexes (h.extractLsb' 12 4) (h.extractLsb' 10 2) = true)
    (hd : frameRow (h.extractLsb' 16 1) (h.extractLsb' 12 4) (h.extractLsb' 10 2) (h.extractLsb' 9 1)
      (h.extractLsb' 0 9) = .ok i) : RowOf h i := by
  obtain ⟨j, hj, -, hbits, -⟩ := frameRow_ok (h.extractLsb' 16 1) _ _ (h.extractLsb' 9 1) (h.extractLsb' 0 9) hv
  obtain rfl : j = i := Except.ok.inj (hj.symm.trans hd)
  exact .inr ⟨_, hbits, frameWord_slices hsync hver hlayer⟩

end

/-- The values a two-bit field is left with once the three invalid ones are ruled out (R112, R113). -/
theorem eq_versionMpeg1 (v : BitVec 2) (h0 : v ≠ 0b00#2) (h1 : v ≠ 0b01#2) (h2 : v ≠ 0b10#2) :
    v = Config.versionMpeg1 := by
  revert v; decide

theorem eq_layerIII (l : BitVec 2) (h0 : l ≠ 0b00#2) (h2 : l ≠ 0b10#2) (h3 : l ≠ 0b11#2) : l = Config.layerIII := by
  revert l; decide

/-- The decoder finds a word's own row: its checks in their order (R81, R82, R85). -/
theorem decodeHeader_rowOf (h : Word) (i : Instr) (hd : decodeHeader h = .ok i) : RowOf h i := by
  unfold decodeHeader at hd
  dsimp only at hd
  split at hd
  case isTrue hs => cases hd; exact rowOf_sync hs rfl rfl
  case isFalse hs =>
  have hsync := not_not.1 hs
  split at hd
  case isTrue hv => cases hd; exact rowOf_version hsync hv (by decide) rfl rfl
  case isFalse v0 =>
  split at hd
  case isTrue hv => cases hd; exact rowOf_version hsync hv (by decide) rfl rfl
  case isFalse v1 =>
  split at hd
  case isTrue hv => cases hd; exact rowOf_version hsync hv (by decide) rfl rfl
  case isFalse v2 =>
  have hver := eq_versionMpeg1 _ v0 v1 v2
  split at hd
  case isTrue hl => cases hd; exact rowOf_layer hsync hver hl (by decide) rfl rfl
  case isFalse l0 =>
  split at hd
  case isTrue hl => cases hd; exact rowOf_layer hsync hver hl (by decide) rfl rfl
  case isFalse l2 =>
  split at hd
  case isTrue hl => cases hd; exact rowOf_layer hsync hver hl (by decide) rfl rfl
  case isFalse l3 =>
  have hlayer := eq_layerIII _ l0 l2 l3
  split at hd
  case isTrue hb => cases hd; exact rowOf_bitrate hsync hver hlayer hb rfl rfl rfl
  case isFalse b0 =>
  split at hd
  case isTrue hb => cases hd; exact rowOf_bitrate hsync hver hlayer hb rfl rfl rfl
  case isFalse b15 =>
  split at hd
  case isTrue hsri => cases hd; exact rowOf_sampleRate hsync hver hlayer b0 b15 hsri rfl rfl
  case isFalse s3 => exact rowOf_frame hsync hver hlayer (by simp [validIndexes, b0, b15, s3]) hd

/-- Running the decoder's row of a word is running the word with the parser's verdict. -/
theorem exec_of_decodeHeader (h : Word) (i : Instr) (s : State) (hd : decodeHeader h = .ok i) :
    exec i s = headerElement (parse h) h s :=
  exec_of_rowOf s (decodeHeader_rowOf h i hd)

/-! ### The row of a frame with a marker -/

/-- The decoder's test of a frame header is the parser's (R81, Q5). -/
theorem isFrameHeader_of_parse (h : Word) (f : FrameHeader) (hp : parse h = .valid f) : isFrameHeader h = true := by
  obtain ⟨hsync, hver, hlayer, hk, hs, -⟩ := (parse_valid h f).1 hp
  have hb : ¬(h.extractLsb' 12 4 = 0#4 ∨ h.extractLsb' 12 4 = 15#4) := fun hn => by
    rw [(bitrateKbps_none _).2 hn] at hk
    cases hk
  have hsri : h.extractLsb' 10 2 ≠ 3#2 := fun hn => by
    rw [(sampleRateHz_none _).2 hn] at hs
    cases hs
  simp [isFrameHeader, validIndexes, hsync, hver, hlayer, not_or.1 hb, hsri]

/-- In phase META a valid header runs as a frame with a marker where one of the two stands at offset 36, and without one
elsewhere (R154, R155). -/
theorem exec_of_decodeMarked (h m : Word) (f : FrameHeader) (i : Instr) (s : State) (hp : parse h = .valid f)
    (hphase : s.phase = .metadata) (hd : decodeMarked h m = .ok i) :
    exec i s = .next (metaOnHeader (.valid f) h (isMarker m) s) := by
  obtain ⟨hsync, hver, hlayer, -⟩ := (parse_valid h f).1 hp
  have marked : markedElement (frameWord ⟨h.extractLsb' 16 1, h.extractLsb' 12 4, h.extractLsb' 10 2, h.extractLsb' 9 1,
      h.extractLsb' 0 9⟩) s = .next (metaOnHeader (.valid f) h true s) := by
    rw [frameWord_slices hsync hver hlayer, markedElement, hphase, hp]
  simp only [decodeMarked, isFrameHeader_of_parse h f hp, Bool.true_and, beq_iff_eq] at hd
  split at hd
  case isTrue hm =>
    cases hd
    rw [show isMarker m = true by simp [isMarker, hm]]
    exact marked
  case isFalse hvbr =>
  split at hd
  case isTrue hm =>
    cases hd
    rw [show isMarker m = true by simp [isMarker, hm]]
    exact marked
  case isFalse hcbr =>
    rw [show isMarker m = false by simp [isMarker, hvbr, hcbr], exec_of_decodeHeader h i s hd, hp,
      headerElement_meta _ _ _ hphase]

/-! ### What the fetch looks at is what the step reads -/

theorem memRead_ok_state {off len : Nat} {s t : State} {bs : List Byte} (h : memRead off len s = .ok bs t) :
    t = s.afterRead off len := by
  rcases memRead_cases off len s with ⟨e, -⟩ | ⟨e, -⟩ | ⟨e, -⟩ | ⟨cs, e, -⟩ <;> rw [e] at h <;> cases h
  rfl

theorem memRead32_ok_state {off : Nat} {s t : State} {w : Word} (h : memRead32 off s = .ok w t) :
    t = s.afterRead off 4 := by
  rcases memRead32_cases off s with ⟨e, -⟩ | ⟨e, -⟩ | ⟨e, -⟩ | ⟨v, e, -⟩ <;> rw [e] at h <;> cases h
  rfl

/-- The tag the decoder finds in the bytes at POS runs as the TAG step that reads them (R140 to R144). -/
theorem exec_of_decodeTag (s t : State) (bs : List Byte) (i : Instr) (hp : s.phase = .tag) (hfar : ¬s.rem < 10)
    (hr : memRead s.pos 10 s = .ok bs t) (hd : decodeTag bs = .ok i) : exec i s = execTagStep s := by
  obtain rfl := memRead_ok_state hr
  have hlen := memRead_length s.pos 10 s _ bs (Nat.le_refl 10) hr
  have hstep : execTagStep s = (tagSkip s.pos s).finish fun p s1 => { s1 with pos := p, phase := .metadata } := by
    rw [execTagStep, hp]
  rw [hstep, tagSkip_far s.pos s (Nat.not_lt.1 hfar), hr, ok_andThen]
  unfold decodeTag at hd
  split at hd
  case h_1 t0 t1 t2 ver rev flags t6 t7 t8 t9 rest =>
    obtain rfl : rest = [] := List.length_eq_zero_iff.1 (by simpa using hlen)
    split at hd
    case isTrue hid =>
      cases hd
      show execTag ver rev flags t6 t7 t8 t9 s = _
      rw [execTag, hp]
      dsimp only
      rw [if_neg (show ¬s.rem < Config.tagHdrLen from hfar), if_pos hid]
      rfl
    case isFalse hid => cases hd
  case h_2 => cases hd

theorem exec_nextTag (s : State) (hp : s.phase = .tag) : exec (nextTag s) s = execTagStep s := by
  unfold nextTag
  split
  case isTrue hnear => rfl
  case isFalse hfar =>
    cases hr : memRead s.pos Config.tagHdrLen s with
    | ok bs t =>
      dsimp only
      cases hd : decode .tag bs with
      | ok i => exact exec_of_decodeTag s t bs i hp hfar hr hd
      | error e => rfl
    | _ => rfl

theorem exec_nextWalk (s : State) (hp : s.phase = .walk) : exec (nextWalk s) s = execWalkStep s := by
  unfold nextWalk
  split
  case isTrue hnear => rfl
  case isFalse hfar =>
    cases hr : memRead32 s.pos s with
    | ok h t =>
      dsimp only
      cases hd : decodeHeader h with
      | ok i =>
        obtain rfl := memRead32_ok_state hr
        show exec i s = _
        rw [exec_of_decodeHeader h i s hd, headerElement_walk _ _ _ hp, walkOnHeader_far _ _ _ (Nat.not_lt.1 hfar),
          execWalkStep, hp]
        dsimp only
        rw [if_neg hfar, hr, finish_ok]
      | error e => rfl
    | _ => rfl

/-- The META step on a header word that is invalid or does not fit: the marker is not read (R152, R153). -/
theorem metaStep_of_unfit (s : State) (h : Word) (hp : s.phase = .metadata) (hfar : 44 ≤ s.size - s.pos)
    (hr : memRead32 s.pos s = .ok h (s.afterRead s.pos 4)) (hfit : headerFits h s.rem = false) :
    execMetaStep s = .next (metaOnHeader (parse h) h false s) := by
  rw [execMetaStep, hp]
  dsimp only
  rw [metaSkip_far s.pos s hfar, hr, ok_andThen]
  cases hv : parse h with
  | invalid c => rw [metaSkipRest_invalid _ _ c _ hv, metaOnHeader_invalid c h false s hfar, finish_ok]
  | valid f =>
    have hlen := headerLength_range h f hv
    have hshort : s.size - s.pos < headerLength f := by
      have hf : ¬(0 < headerLength f ∧ headerLength f ≤ s.rem) := by
        rw [← fits_iff, Bool.not_eq_true]
        simpa only [headerFits, hv] using hfit
      rw [State.rem] at hf
      omega
    rw [metaSkipRest_short s.pos h f (s.afterRead s.pos 4) hv hshort, metaOnHeader_short f h false s hfar hshort,
      finish_ok]

/-- The META step on a frame that fits: the marker decides (R154, R155). -/
theorem metaStep_of_fits (s t : State) (h m : Word) (f : FrameHeader) (hp : s.phase = .metadata)
    (hfar : 44 ≤ s.size - s.pos) (hr : memRead32 s.pos s = .ok h (s.afterRead s.pos 4)) (hv : parse h = .valid f)
    (hfit : headerLength f ≤ s.size - s.pos) (hm : memRead32 (s.pos + 36) (s.afterRead s.pos 4) = .ok m t) :
    execMetaStep s = .next (metaOnHeader (.valid f) h (isMarker m) s) := by
  have hlen := headerLength_range h f hv
  have hm' : memRead32 (s.pos + 36) ((s.afterRead s.pos 4).writeHeader h (.valid f)) =
      .ok m (((s.afterRead s.pos 4).writeHeader h (.valid f)).afterRead (s.pos + 36) 4) := by
    rw [memRead32_writeHeader, hm, memRead32_ok_state hm, writeHeader_afterRead]
  rw [execMetaStep, hp]
  dsimp only
  rw [metaSkip_far s.pos s hfar, hr, ok_andThen,
    metaSkipRest_fits s.pos h f (s.afterRead s.pos 4) hv (by omega) hfit, hm', ok_andThen, finish_ok,
    metaOnHeader_fits f h _ s hfar (by omega) hfit]

theorem exec_nextMeta (s : State) (hp : s.phase = .metadata) : exec (nextMeta s) s = execMetaStep s := by
  unfold nextMeta
  split
  case isTrue hnear => rfl
  case isFalse hfar =>
    have hfar' : 44 ≤ s.size - s.pos := Nat.not_lt.1 hfar
    cases hr : memRead32 s.pos s with
    | ok h t =>
      obtain rfl := memRead32_ok_state hr
      dsimp only
      split
      case isTrue hfit =>
        cases hm : memRead32 (s.pos + Config.metaOffset) (s.afterRead s.pos 4) with
        | ok m u =>
          dsimp only
          cases hd : decodeMarked h m with
          | ok i =>
            rw [headerFits] at hfit
            cases hv : parse h with
            | invalid c => simp [hv] at hfit
            | valid f =>
              rw [hv] at hfit
              have hlen := ((fits_iff _ _).1 hfit).2
              show exec i s = _
              rw [exec_of_decodeMarked h m f i s hv hp hd, metaStep_of_fits s u h m f hp hfar' hr hv hlen hm]
          | error e => rfl
        | _ => rfl
      case isFalse hfit =>
        cases hd : decodeHeader h with
        | ok i =>
          show exec i s = _
          rw [exec_of_decodeHeader h i s hd, headerElement_meta _ _ _ hp,
            metaStep_of_unfit s h hp hfar' hr (by simpa using hfit)]
        | error e => rfl
    | _ => rfl

/-! ### The sequencer's own step, phase by phase -/

theorem internalStep_tag (s : State) (hp : s.phase = .tag) : internalStep s = endStep (execTagStep s) := by
  rw [internalStep, nextInstr, hp]
  exact congrArg endStep (exec_nextTag s hp)

theorem internalStep_metadata (s : State) (hp : s.phase = .metadata) : internalStep s = endStep (execMetaStep s) := by
  rw [internalStep, nextInstr, hp]
  exact congrArg endStep (exec_nextMeta s hp)

theorem internalStep_walk (s : State) (hp : s.phase = .walk) : internalStep s = endStep (execWalkStep s) := by
  rw [internalStep, nextInstr, hp]
  exact congrArg endStep (exec_nextWalk s hp)

theorem busy_iff (s : State) : s.busy = true ↔ s.phase = .tag ∨ s.phase = .metadata ∨ s.phase = .walk := by
  simp [State.busy, or_assoc]

theorem internalStep_quiescent (s : State) (hb : s.busy = false) : internalStep s = .next s := by
  have hq : ¬(s.phase = .tag ∨ s.phase = .metadata ∨ s.phase = .walk) := by simp [← busy_iff, hb]
  rw [internalStep, nextInstr]
  cases hp : s.phase with
  | tag => exact absurd (.inl hp) hq
  | metadata => exact absurd (.inr (.inl hp)) hq
  | walk => exact absurd (.inr (.inr hp)) hq
  | _ => rfl

end Sys2Proof.Machine
end

section
/-! What one step of a pass can do to the registers that live between steps, said once, and the statements about the
state that follow from it (`10_state.md` R20 to R28). -/

namespace Sys2Proof.Machine

open Host

/-! ### What every step of a pass keeps -/

/-- The source is as before and was asked for bytes inside it only, ten or four at a time (R51, R53, R58). -/
structure ReadsInside (s t : State) : Prop where
  size  : t.size = s.size
  mem   : t.mem = s.mem
  reads : ∀ r ∈ t.reads, r ∈ s.reads ∨ r.allowed s.size

theorem ReadsInside.refl (s : State) : ReadsInside s s := ⟨rfl, rfl, fun _ hr => .inl hr⟩

theorem ReadsInside.afterRead {s t : State} {off len : Nat} (h : ReadsInside s t) (hin : off + len ≤ s.size)
    (hlen : len = 10 ∨ len = 4) : ReadsInside s (t.afterRead off len) where
  size := h.size
  mem := h.mem
  reads r hr := by
    rcases List.mem_cons.1 hr with rfl | hr
    · rcases hlen with rfl | rfl
      · exact .inr ⟨hin, .inl rfl⟩
      · exact .inr ⟨hin, .inr rfl⟩
    · exact h.reads r hr

theorem ReadsInside.writeHeader {s t : State} (h : ReadsInside s t) (w : Word) (r : ParseResult) :
    ReadsInside s (t.writeHeader w r) := by
  cases r <;> exact ⟨h.size, h.mem, h.reads⟩

/-! ### What a step of a pass may write -/

/-- How a step of a pass moves PHASE, and which of CNT, STOP and INV_CAUSE it writes with it. -/
inductive Move (s t : State) : Prop where
  /-- A skip is over (R162, R163). -/
  | skip (next : s.phase = .tag ∧ t.phase = .metadata ∨ s.phase = .metadata ∧ t.phase = .walk)
      (cnt : t.cnt = s.cnt) (stop : t.stop = s.stop) (cause : t.invCause = s.invCause)
  /-- A frame is counted (R168). -/
  | count (start : s.phase = .walk) (next : t.phase = .walk) (cnt : t.cnt = s.cnt + 1) (pos : s.pos + 96 ≤ t.pos)
      (stop : t.stop = s.stop) (cause : t.invCause = s.invCause)
  /-- The source has ended, or its last frame is cut off (R164, R167). -/
  | stop (start : s.phase = .walk) (next : t.phase = .done) (cnt : t.cnt = s.cnt)
      (stop : t.stop = .endOfSource ∨ t.stop = .truncatedFrame) (cause : t.invCause = s.invCause)
  /-- The word at POS is no header (R166). -/
  | invalid (start : s.phase = .walk) (next : t.phase = .done) (cnt : t.cnt = s.cnt) (stop : t.stop = .invalidHeader)
      (cause : t.invCause ≠ .none)
  /-- A read failed (R203). -/
  | fail (start : s.busy = true) (next : t.phase = .fault) (cnt : t.cnt = s.cnt) (stop : t.stop = .ioError)
      (cause : t.invCause = s.invCause)

/-- What a step of a pass does to the registers that live between steps. -/
structure PassStep (s t : State) : Prop where
  kept      : ReadsInside s t
  posMono   : s.pos ≤ t.pos
  posInside : s.pos ≤ s.size → t.pos ≤ s.size
  move      : Move s t

theorem PassStep.scrub {s t : State} (h : PassStep s t) : PassStep s t.scrub where
  kept := ⟨h.kept.size, h.kept.mem, h.kept.reads⟩
  posMono := h.posMono
  posInside := h.posInside
  move := by
    cases h.move with
    | skip next cnt stop cause => exact .skip next cnt stop cause
    | count start next cnt pos stop cause => exact .count start next cnt pos stop cause
    | stop start next cnt stop cause => exact .stop start next cnt stop cause
    | invalid start next cnt stop cause => exact .invalid start next cnt stop cause
    | fail start next cnt stop cause => exact .fail start next cnt stop cause

section
variable {s t : State}

/-- The fault entry after any part of a step that has only read (R203). -/
theorem passStep_fault (hb : s.busy = true) (hk : ReadsInside s t) (hpos : t.pos = s.pos) (hcnt : t.cnt = s.cnt)
    (hcause : t.invCause = s.invCause) : PassStep s (raiseFault t) where
  kept := ⟨hk.size, hk.mem, hk.reads⟩
  posMono := hpos.ge
  posInside h := hpos.le.trans h
  move := .fail hb rfl hcnt rfl hcause

theorem execTagStep_passStep (hp : s.phase = .tag) (h : execTagStep s = .next t) : PassStep s t := by
  have hb : s.busy = true := (busy_iff s).2 (.inl hp)
  rw [execTagStep, hp] at h
  dsimp only at h
  rcases tagSkip_cases s.pos s with ⟨e, -⟩ | ⟨e, -⟩ | ⟨e, hfar⟩ | ⟨p, e, hfar, hle, hsize⟩ <;> rw [e] at h <;> cases h
  · exact ⟨⟨rfl, rfl, fun _ hr => .inl hr⟩, Nat.le_refl _, id, .skip (.inl ⟨hp, rfl⟩) rfl rfl rfl⟩
  · exact passStep_fault hb ((ReadsInside.refl s).afterRead (by omega) (.inl rfl)) rfl rfl rfl
  · have hk := (ReadsInside.refl s).afterRead (off := s.pos) (len := 10) (by omega) (.inl rfl)
    exact ⟨⟨hk.size, hk.mem, hk.reads⟩, hle, fun _ => hsize, .skip (.inl ⟨hp, rfl⟩) rfl rfl rfl⟩

/-- Leaving the metadata-frame skip at a position not before POS and inside the source (R150, R163). -/
theorem passStep_enterWalk {u : State} {p : Nat} (hp : s.phase = .metadata) (hk : ReadsInside s u) (hle : s.pos ≤ p)
    (hsize : s.pos ≤ s.size → p ≤ s.size) (hcnt : u.cnt = s.cnt) (hstop : u.stop = s.stop)
    (hcause : u.invCause = s.invCause) : PassStep s (enterWalk p u) where
  kept := ⟨hk.size, hk.mem, hk.reads⟩
  posMono := hle
  posInside := hsize
  move := .skip (.inr ⟨hp, rfl⟩) hcnt hstop hcause

theorem execMetaStep_passStep (hp : s.phase = .metadata) (h : execMetaStep s = .next t) : PassStep s t := by
  have hb : s.busy = true := (busy_iff s).2 (.inr (.inl hp))
  rw [execMetaStep, hp] at h
  dsimp only at h
  rcases metaSkip_cases s.pos s with ⟨e, -⟩ | ⟨hfar, hcases⟩
  · rw [e] at h
    cases h
    exact passStep_enterWalk hp (.refl s) (Nat.le_refl _) id rfl rfl rfl
  have hread : ReadsInside s (s.afterRead s.pos 4) := (ReadsInside.refl s).afterRead (by omega) (.inr rfl)
  have hmarker : ∀ w f, ReadsInside s (((s.afterRead s.pos 4).writeHeader w (.valid f)).afterRead (s.pos + 36) 4) :=
    fun w f => (hread.writeHeader w (.valid f)).afterRead (by omega) (.inr rfl)
  rcases hcases with e | e | ⟨w, c, -, -, e⟩ | ⟨w, f, -, -, -, e⟩ | ⟨w, f, -, -, hfit, e | ⟨m, e⟩⟩ <;>
    rw [e] at h <;> cases h
  · exact passStep_fault hb hread rfl rfl rfl
  · exact passStep_enterWalk hp (hread.writeHeader w (.invalid c)) (Nat.le_refl _) id rfl rfl rfl
  · exact passStep_enterWalk hp (hread.writeHeader w (.valid f)) (Nat.le_refl _) id rfl rfl rfl
  · exact passStep_fault hb (hmarker w f) rfl rfl rfl
  · have hlen := ((fits_iff _ _).1 hfit).2
    exact passStep_enterWalk hp (hmarker w f) (by split <;> omega) (fun _ => by split <;> omega) rfl rfl rfl

theorem execWalkStep_passStep (hp : s.phase = .walk) (h : execWalkStep s = .next t) : PassStep s t := by
  have hb : s.busy = true := (busy_iff s).2 (.inr (.inr hp))
  rcases walkStep_cases s hp with ⟨e, -⟩ | ⟨hfar, e | e | ⟨w, -, e⟩⟩ <;> rw [e] at h <;> cases h
  · exact ⟨⟨rfl, rfl, fun _ hr => .inl hr⟩, Nat.le_refl _, id, .stop hp rfl rfl (.inl rfl) rfl⟩
  all_goals
    have hin : s.pos + 4 ≤ s.size := by rw [State.rem] at hfar; omega
    have hread : ReadsInside s (s.afterRead s.pos 4) := (ReadsInside.refl s).afterRead hin (.inr rfl)
  · exact passStep_fault hb hread rfl rfl rfl
  · have hk := hread.writeHeader w (parse w)
    rcases walkVerdict_cases (parse w) w (s.afterRead s.pos 4) with ⟨c, hv, e⟩ | ⟨f, hv, -, e⟩ | ⟨f, hv, hfit, e⟩ <;>
      rw [e] <;> rw [hv] at hk ⊢
    · exact ⟨⟨hk.size, hk.mem, hk.reads⟩, Nat.le_refl _, id, .invalid hp rfl rfl rfl (parse_invalid_ne w c hv)⟩
    · exact ⟨⟨hk.size, hk.mem, hk.reads⟩, Nat.le_refl _, id, .stop hp rfl rfl (.inr rfl) rfl⟩
    · have hlong := (headerLength_range w f hv).1
      have hlen : headerLength f ≤ s.size - s.pos := ((fits_iff _ _).1 hfit).2
      exact ⟨⟨hk.size, hk.mem, hk.reads⟩, Nat.le_add_right _ _, fun _ => show s.pos + headerLength f ≤ s.size by omega,
        .count hp hp rfl (Nat.add_le_add_left hlong _) rfl rfl⟩

end

theorem endStep_next {o : Outcome State Fault Refusal} {t : State} (h : endStep o = .next t) :
    ∃ u, o = .next u ∧ t = u.scrub := by
  cases o with
  | next u => exact ⟨u, rfl, (Outcome.next.inj h).symm⟩
  | fault r => cases h
  | refused r => cases h

/-- All a step of the sequencer's own can do: nothing in a quiescent phase, else a step of the pass. -/
theorem internalStep_next {s t : State} (h : internalStep s = .next t) :
    (s.busy = false ∧ t = s) ∨ (s.busy = true ∧ PassStep s t) := by
  cases hb : s.busy with
  | false =>
    rw [internalStep_quiescent s hb] at h
    exact .inl ⟨rfl, (Outcome.next.inj h).symm⟩
  | true =>
    refine .inr ⟨rfl, ?_⟩
    rcases (busy_iff s).1 hb with hp | hp | hp
    · rw [internalStep_tag s hp] at h
      obtain ⟨u, hu, rfl⟩ := endStep_next h
      exact (execTagStep_passStep hp hu).scrub
    · rw [internalStep_metadata s hp] at h
      obtain ⟨u, hu, rfl⟩ := endStep_next h
      exact (execMetaStep_passStep hp hu).scrub
    · rw [internalStep_walk s hp] at h
      obtain ⟨u, hu, rfl⟩ := endStep_next h
      exact (execWalkStep_passStep hp hu).scrub

/-! ### The invariant -/

section
variable {s t : State}

theorem Move.busy (h : Move s t) : s.busy = true := by
  cases h with
  | skip next => exact (busy_iff s).2 (next.imp And.left fun h => .inl h.1)
  | count start | stop start | invalid start => exact (busy_iff s).2 (.inr (.inr start))
  | fail start => exact start

theorem Move.countedBytes (h : Move s t) (hs : 96 * s.cnt ≤ s.pos) (hpos : s.pos ≤ t.pos) : 96 * t.cnt ≤ t.pos := by
  cases h with
  | count start next cnt | skip next cnt | stop start next cnt | invalid start next cnt | fail start next cnt => omega

theorem Move.next_ne_tag (h : Move s t) : t.phase ≠ .tag := by
  cases h with
  | skip next => rcases next with ⟨-, next⟩ | ⟨-, next⟩ <;> rw [next] <;> decide
  | count start next | stop start next | invalid start next | fail start next => rw [next]; decide

/-- The metadata-frame skip is entered from the tag skip only (R161). -/
theorem Move.from_tag (h : Move s t) (ht : t.phase = .metadata) : s.phase = .tag ∧ t.cnt = s.cnt := by
  cases h with
  | skip next cnt =>
    rcases next with ⟨hs, -⟩ | ⟨-, next⟩
    · exact ⟨hs, cnt⟩
    · rw [ht] at next; cases next
  | count start next | stop start next | invalid start next | fail start next => rw [ht] at next; cases next

theorem Move.stopReason (h : Move s t) (hs : s.stop = .none) : stopFitsPhase t.phase t.stop = true := by
  cases h with
  | skip next cnt stop => rcases next with ⟨-, next⟩ | ⟨-, next⟩ <;> rw [next, stop, hs] <;> rfl
  | count start next cnt pos stop => rw [next, stop, hs]; rfl
  | stop start next cnt stop => rcases stop with stop | stop <;> rw [next, stop] <;> rfl
  | invalid start next cnt stop => rw [next, stop]; rfl
  | fail start next cnt stop => rw [next, stop]; rfl

theorem Move.causeOnlyIfInvalid (h : Move s t) (hs : s.stop = .none) (hc : s.invCause = .none) :
    t.invCause ≠ .none ↔ t.stop = .invalidHeader := by
  cases h with
  | skip next cnt stop cause => simp [stop, cause, hs, hc]
  | count start next cnt pos stop cause => simp [stop, cause, hs, hc]
  | stop start next cnt stop cause => rcases stop with stop | stop <;> simp [stop, cause, hc]
  | invalid start next cnt stop cause => simp [stop, cause]
  | fail start next cnt stop cause => simp [stop, cause, hc]

theorem phase_ne_idle_of_busy (hb : s.busy = true) : s.phase ≠ .idle := by
  rcases (busy_iff s).1 hb with hp | hp | hp <;> rw [hp] <;> decide

/-- While a pass runs there is no reason yet why it ended (R27, R28). -/
theorem Inv.no_reason_while_busy (hi : Inv s) (hb : s.busy = true) : s.stop = .none ∧ s.invCause = .none := by
  have hstop : s.stop = .none := by
    have hfits := hi.stopReason
    cases hs : s.stop with
    | none => rfl
    | _ => rcases (busy_iff s).1 hb with hp | hp | hp <;> rw [hp, hs] at hfits <;> cases hfits
  refine ⟨hstop, not_not.1 fun hc => ?_⟩
  have := hi.causeOnlyIfInvalid.1 hc
  rw [hstop] at this
  cases this

theorem Inv.passStep (hi : Inv s) (h : PassStep s t) : Inv t := by
  have hb := h.move.busy
  have hne := phase_ne_idle_of_busy hb
  obtain ⟨hstop, hcause⟩ := hi.no_reason_while_busy hb
  exact
    { memory := h.kept.mem ▸ hi.memory
      posInSource := fun _ => h.kept.size ▸ h.posInside (hi.posInSource hne)
      countedBytes := fun _ => h.move.countedBytes (hi.countedBytes hne) h.posMono
      startOfPass := fun ht => absurd ht h.move.next_ne_tag
      beforeWalk := fun ht => by
        obtain ⟨hs, hcnt⟩ := h.move.from_tag ht
        rw [hcnt, (hi.startOfPass hs).2]
      stopReason := h.move.stopReason hstop
      causeOnlyIfInvalid := h.move.causeOnlyIfInvalid hstop hcause
      readsInside := fun _ r hr => by
        rw [h.kept.size]
        exact (h.kept.reads r hr).elim (hi.readsInside hne r) id }

theorem Inv.internalStep (hi : Inv s) (h : internalStep s = .next t) : Inv t := by
  rcases internalStep_next h with ⟨-, rfl⟩ | ⟨-, hstep⟩
  · exact hi
  · exact hi.passStep hstep

end

/-! ### The host's commands and hardware reset -/

section
variable {s t : State}

theorem Inv.withHost (hi : Inv s) (l : List HostInput) : Inv (s.withHost l) :=
  ⟨hi.memory, hi.posInSource, hi.countedBytes, hi.startOfPass, hi.beforeWalk, hi.stopReason, hi.causeOnlyIfInvalid,
    hi.readsInside⟩

/-- IDLE asks nothing of SIZE, POS, CNT and the requests (R220, U13). -/
theorem inv_of_idle (hmem : s.mem.wf = true) (hp : s.phase = .idle) (hstop : s.stop = .none)
    (hcause : s.invCause = .none) : Inv s where
  memory := hmem
  posInSource h := absurd hp h
  countedBytes h := absurd hp h
  startOfPass h := by rw [hp] at h; cases h
  beforeWalk h := by rw [hp] at h; cases h
  stopReason := by rw [hp, hstop]; rfl
  causeOnlyIfInvalid := by simp [hstop, hcause]
  readsInside h := absurd hp h

theorem Inv.hardwareReset (hi : Inv s) : Inv (hardwareReset s) := inv_of_idle hi.memory rfl rfl rfl

theorem Inv.execAbort (hi : Inv s) (h : execAbort s = .next t) : Inv t := by
  rw [Machine.execAbort] at h
  split at h
  case isTrue hb =>
    obtain ⟨hstop, hcause⟩ := hi.no_reason_while_busy hb
    cases h
    exact inv_of_idle hi.memory rfl hstop hcause
  case isFalse hb => cases h; exact hi

/-- A START that is accepted begins the pass with every register it owns written (R160). -/
theorem Inv.execStart {n : Nat} (hi : Inv s) (h : execStart n s = .next t) : Inv t := by
  rw [Machine.execStart] at h
  split at h
  case isTrue hb => cases h; exact hi
  case isFalse hb =>
    cases h
    refine ⟨hi.memory, fun _ => Nat.zero_le _, fun _ => Nat.zero_le _, fun _ => ⟨rfl, rfl⟩, fun _ => rfl, ?_, ?_,
      fun _ r hr => nomatch hr⟩ <;> by_cases hn : n < 4 <;> simp [hn, stopFitsPhase]

theorem Inv.hostStep {c : HostInput} (hi : Inv s) (h : hostStep c s = .next t) : Inv t := by
  cases c with
  | quiet => exact hi.internalStep h
  | start n => exact hi.execStart h
  | abort => exact hi.execAbort h
  | abortStart n =>
    change andThen (Machine.execAbort s) (Machine.execStart n) = .next t at h
    cases hu : Machine.execAbort s with
    | next u =>
      rw [hu] at h
      exact (hi.execAbort hu).execStart h
    | fault r => rw [hu] at h; cases h
    | refused r => rw [hu] at h; cases h
  | hardwareReset => cases h; exact hi.hardwareReset

end

/-- Settles O41: the sequencer's own steps keep the invariant by what a step of a pass can do, the host's inputs one by
one. -/
theorem everyStepKeepsTheInvariant : Obligations.EveryStepKeepsTheInvariant := by
  intro s t hi h
  rw [step, boundary] at h
  cases hc : s.host with
  | nil =>
    rw [hc] at h
    exact hi.internalStep h
  | cons c rest =>
    rw [hc] at h
    exact (hi.withHost rest).hostStep h

/-! ### Boundaries at which the host asserts nothing -/

/-- Without a command the step is the sequencer's own, up to the host inputs still to come. -/
theorem step_next_of_noCommand {s t : State} (hc : NoCommand s) (h : step s = .next t) :
    ∃ u l, internalStep s = .next u ∧ t = u.withHost l := by
  rcases hc with hc | ⟨rest, hc⟩
  · rw [step_no_input s hc] at h
    exact ⟨t, t.host, h, rfl⟩
  · rw [step_quiet s rest hc, internalStep_withHost] at h
    cases hu : internalStep s with
    | next u =>
      rw [hu] at h
      exact ⟨u, rest, rfl, (Outcome.next.inj h).symm⟩
    | fault r => rw [hu] at h; cases h
    | refused r => rw [hu] at h; cases h

/-- Settles O42: POS only moves forward in a step of a pass, and stays inside the source. -/
theorem positionIsMonotoneAndInside : Obligations.PositionIsMonotoneAndInside := by
  intro s t hi hc hb h
  obtain ⟨u, l, hu, rfl⟩ := step_next_of_noCommand hc h
  rcases internalStep_next hu with ⟨hq, -⟩ | ⟨-, hstep⟩
  · rw [hb] at hq
    cases hq
  · have hsize : u.size = s.size := hstep.kept.size
    have hinside := hstep.posInside (hi.posInSource (phase_ne_idle_of_busy hb))
    exact ⟨hstep.posMono, hinside.trans hsize.ge, hsize⟩

section
variable {s t : State}

theorem Move.cnt_changed (h : Move s t) (hne : t.cnt ≠ s.cnt) :
    s.phase = .walk ∧ t.phase = .walk ∧ t.cnt = s.cnt + 1 ∧ s.pos + 96 ≤ t.pos := by
  cases h with
  | count start next cnt pos => exact ⟨start, next, cnt, pos⟩
  | skip next cnt | stop start next cnt | invalid start next cnt | fail start next cnt => exact absurd cnt hne

theorem Move.cause_changed (h : Move s t) (hne : t.invCause ≠ s.invCause) :
    s.phase = .walk ∧ t.phase = .done ∧ t.stop = .invalidHeader := by
  cases h with
  | invalid start next cnt stop => exact ⟨start, next, stop⟩
  | skip next cnt stop cause | count start next cnt pos stop cause | stop start next cnt stop cause
  | fail start next cnt stop cause => exact absurd cause hne

theorem Move.stop_changed (h : Move s t) (hne : t.stop ≠ s.stop) : t.phase = .done ∨ t.phase = .fault := by
  cases h with
  | skip next cnt stop | count start next cnt pos stop => exact absurd stop hne
  | stop start next | invalid start next => exact .inl next
  | fail start next => exact .inr next

end

/-- Settles O44: each register a step of a pass may write is written by one kind of step. -/
theorem onlyTheWalkerCounts : Obligations.OnlyTheWalkerCounts := by
  intro s t hc h
  obtain ⟨u, l, hu, rfl⟩ := step_next_of_noCommand hc h
  rcases internalStep_next hu with ⟨-, rfl⟩ | ⟨-, hstep⟩
  · exact ⟨rfl, rfl, fun hne => absurd rfl hne, fun hne => absurd rfl hne, fun hne => absurd rfl hne⟩
  · exact ⟨hstep.kept.size, hstep.kept.mem, hstep.move.cnt_changed, hstep.move.cause_changed, hstep.move.stop_changed⟩

/-! ### The ports -/

theorem done_iff (s : State) : s.done = true ↔ s.phase = .done ∨ s.phase = .fault := by
  simp [State.done]

theorem error_iff (s : State) : s.error = true ↔ s.phase = .fault := by
  simp [State.error]

/-- Settles O35: the flags by the phases they name, the other ports by what they show. -/
theorem portsShowTheRegisters : Obligations.PortsShowTheRegisters :=
  ⟨fun s => ⟨busy_iff s, done_iff s, error_iff s, rfl, rfl, rfl, rfl⟩, rfl, rfl, rfl⟩

end Sys2Proof.Machine
end

section
/-! The read port (`20_memory.md` R52 to R58): what an answer without `rd_err` carries in its lanes, and what MemRead
takes from them. -/

namespace Sys2Proof.Machine

open Host

/-! ### The bytes of an answer -/

/-- What a read returns at a place is what the source holds there (R52). -/
theorem read_of_readAt {m : Memory} {off len i : Nat} {b : Byte} (h : (m.readAt off len)[i]? = some b) :
    m.read (off + i) = some b := by
  induction len generalizing off i with
  | zero => simp [Memory.readAt] at h
  | succ len ih =>
    cases hr : m.read off with
    | none => simp [Memory.readAt, hr] at h
    | some c =>
      simp only [Memory.readAt, hr] at h
      cases i with
      | zero => simpa [hr] using h
      | succ i =>
        rw [show off + (i + 1) = off + 1 + i by omega]
        exact ih (by simpa using h)

/-- A lane below `rd_n` holds the byte it stands for, in its eight bits of `rd_data` (R55). -/
theorem dataAnswer_data_lane (s : State) (bs : List Byte) (h10 : bs.length ≤ 10) (i : Nat) (hi : i < bs.length) :
    bs[i]? = some ((dataAnswer s bs).data.extractLsb' (8 * i) 8) := by
  have hlane : (dataAnswer s bs).lane i = bs[i] := by
    simp [ReadAnswer.lane, dataAnswer, dataLanes, List.getElem?_range (show i < 10 by omega), hi]
  rw [data_lane _ i (by omega), hlane, List.getElem?_eq_getElem hi]

/-- An answer without `rd_err` is made of the first of the bytes the source has there. -/
theorem portAnswer_data {s : State} {off len : Nat} {a : ReadAnswer} (ha : portAnswer s off len = some a)
    (herr : a.err = false) : ∃ bs, a = dataAnswer s bs ∧ bs <+: s.mem.readAt off len := by
  rw [portAnswer] at ha
  cases hp : s.port.head?.getD .serve with
  | serve =>
    rw [hp] at ha
    cases ha
    exact ⟨_, rfl, List.prefix_refl _⟩
  | error =>
    rw [hp] at ha
    cases ha
    cases herr
  | short k =>
    rw [hp] at ha
    cases ha
    exact ⟨_, rfl, List.take_prefix k _⟩
  | silent =>
    rw [hp] at ha
    cases ha

/-- `rd_n` counts the bytes that come, and each stands in its lane (R55). -/
theorem portAnswer_lanes {s : State} {off len : Nat} {a : ReadAnswer} (h10 : len ≤ 10)
    (ha : portAnswer s off len = some a) (herr : a.err = false) :
    a.n.toNat ≤ len ∧ ∀ i, i < a.n.toNat → s.mem.read (off + i) = some (a.data.extractLsb' (8 * i) 8) := by
  obtain ⟨bs, rfl, hprefix⟩ := portAnswer_data ha herr
  have hlen : bs.length ≤ len := hprefix.length_le.trans (readAt_length_le _ _ _)
  rw [dataAnswer_n s bs (by omega)]
  refine ⟨hlen, fun i hi => read_of_readAt (len := len) ?_⟩
  obtain ⟨rest, hread⟩ := hprefix
  rw [← hread, List.getElem?_append_left hi]
  exact dataAnswer_data_lane s bs (by omega) i hi

/-- Where the source has the bytes and the port holds none back, all of them come (R52). -/
theorem portAnswer_served {s : State} {off len : Nat} {bytes : Nat → Byte} (hs : ReadServed s off len bytes) :
    portAnswer s off len = some (dataAnswer s ((List.range len).map bytes)) := by
  obtain ⟨hfull, hbytes⟩ := hs
  rw [portAnswer, readAt_full s.mem off len bytes hbytes]
  cases hp : s.port.head?.getD .serve with
  | serve => rfl
  | short k =>
    have hk : len ≤ k := by simpa [hp, answersInFull] using hfull
    dsimp only
    rw [List.take_of_length_le (by simpa using hk)]
  | error | silent => simp [hp, answersInFull] at hfull

/-! ### What MemRead takes -/

/-- MemRead gives the first lanes of an answer without `rd_err` that holds back none of the bytes (R52, R66). -/
theorem memRead_ok_answer {s t : State} {off len : Nat} {bs : List Byte} (h : memRead off len s = .ok bs t) :
    ∃ a, portAnswer s off len = some a ∧ a.err = false ∧ len ≤ a.n.toNat ∧ bs = a.lanes.take len := by
  by_cases hin : off + len ≤ s.size
  · rw [memRead_inside off len s hin] at h
    cases ha : portAnswer s off len with
    | none => rw [ha] at h; cases h
    | some a =>
      rw [ha] at h
      dsimp only at h
      split at h
      case isTrue => cases h
      case isFalse hok =>
        cases h
        simp only [Bool.or_eq_true, decide_eq_true_eq, not_or, Bool.not_eq_true, not_lt] at hok
        obtain ⟨herr, hn⟩ := hok
        exact ⟨a, rfl, herr, hn, rfl⟩
  · rw [memRead_outside off len s (by omega)] at h
    cases h

/-- The lanes MemRead takes, as bits of `rd_data`, and the request it leaves on record (R55). -/
theorem memRead_ok_lanes {s t : State} {off len : Nat} {bs : List Byte} (h10 : len ≤ 10)
    (h : memRead off len s = .ok bs t) :
    ∃ a, portAnswer s off len = some a ∧ a.err = false ∧ a.n.toNat = len ∧
      bs = (List.range len).map (fun i => a.data.extractLsb' (8 * i) 8) ∧
      t.reads = ⟨off, BitVec.ofNat 4 len⟩ :: s.reads := by
  obtain ⟨a, ha, herr, hn, rfl⟩ := memRead_ok_answer h
  have hlanes : a.lanes.length = 10 := by
    obtain ⟨cs, rfl, -⟩ := portAnswer_data ha herr
    exact dataLanes_length s cs
  have hle : a.n.toNat ≤ len := (portAnswer_lanes h10 ha herr).1
  exact ⟨a, ha, herr, Nat.le_antisymm hle hn, take_lanes a len h10 hlanes, by rw [memRead_ok_state h, afterRead_reads]⟩

/-- Settles O58: the lanes of an answer, the answer to a read that is served, and the lanes MemRead takes. -/
theorem readPortCarriesTheBytesInItsLanes : Obligations.ReadPortCarriesTheBytesInItsLanes :=
  ⟨fun _ _ _ _ h10 ha herr => portAnswer_lanes h10 ha herr,
    fun _ _ len bytes _ hs => ⟨_, portAnswer_served hs, rfl, by simp [dataAnswer]⟩,
    fun _ _ _ _ _ h10 h => memRead_ok_lanes h10 h⟩

/-- Settles O18: a served word is its four bytes, the first the most significant. -/
theorem headerReadIsBigEndian : Obligations.HeaderReadIsBigEndian := fun off bytes s hin hs =>
  ⟨wordOf bytes, memRead32_served off bytes s hin hs, be32_toNat _ _ _ _⟩

end Sys2Proof.Machine
end

section
/-! The byte source is never written (`20_memory.md` R51): no read, no part of a step and no instruction has a store. -/

namespace Sys2Proof.Machine

open Host

/-! ### Outcomes that leave the source -/

/-- Whatever state a part of a step ends in, the source there is `m`. -/
def Res.SourceKept {α : Type} (m : Memory) : Res α → Prop
  | .ok _ s => s.mem = m
  | .ioFail s => s.mem = m
  | .silent => True
  | .outside => True

/-- If an outcome has a next state, the source there is `m`. -/
def OutcomeSourceKept (m : Memory) : Outcome State Fault Refusal → Prop
  | .next s => s.mem = m
  | .fault _ => True
  | .refused _ => True

section
variable {m : Memory}

theorem OutcomeSourceKept.mem_eq {o : Outcome State Fault Refusal} {t : State} (h : OutcomeSourceKept m o)
    (ho : o = .next t) : t.mem = m := by
  subst ho
  exact h

theorem Res.SourceKept.finish {α : Type} {r : Res α} {k : α → State → State} (h : r.SourceKept m)
    (hk : ∀ a t, (k a t).mem = t.mem) : OutcomeSourceKept m (r.finish k) := by
  cases r with
  | ok a t => exact (hk a t).trans h
  | ioFail t => exact h
  | silent => trivial
  | outside => trivial

theorem OutcomeSourceKept.andThen {o : Outcome State Fault Refusal} {k : State → Outcome State Fault Refusal}
    (h : OutcomeSourceKept m o) (hk : ∀ t, OutcomeSourceKept t.mem (k t)) : OutcomeSourceKept m (andThen o k) := by
  cases o with
  | next t =>
    obtain rfl : t.mem = m := h
    exact hk t
  | fault r => trivial
  | refused r => trivial

theorem OutcomeSourceKept.endStep {o : Outcome State Fault Refusal} (h : OutcomeSourceKept m o) :
    OutcomeSourceKept m (endStep o) := by
  cases o <;> exact h

end

section
variable (s : State)

/-! ### Reads, skips and header words -/

theorem memRead32_sourceKept (off : Nat) : (memRead32 off s).SourceKept s.mem := by
  rcases memRead32_cases off s with ⟨e, -⟩ | ⟨e, -⟩ | ⟨e, -⟩ | ⟨h, e, -⟩ <;> rw [e]
  · trivial
  · trivial
  · rfl
  · rfl

theorem tagSkip_sourceKept (pos : Nat) : (tagSkip pos s).SourceKept s.mem := by
  rcases tagSkip_cases pos s with ⟨e, -⟩ | ⟨e, -⟩ | ⟨e, -⟩ | ⟨p, e, -⟩ <;> rw [e]
  · rfl
  · trivial
  · rfl
  · rfl

theorem metaSkip_sourceKept (pos : Nat) : (metaSkip pos s).SourceKept s.mem := by
  rcases metaSkip_cases pos s with ⟨e, -⟩ | ⟨-, e | e | ⟨h, c, -, -, e⟩ | ⟨h, f, -, -, -, e⟩ |
    ⟨h, f, -, -, -, e | ⟨w, e⟩⟩⟩ <;> rw [e]
  · rfl
  · trivial
  all_goals rfl

theorem walkVerdict_mem (r : ParseResult) (h : Word) : (walkVerdict r h s).mem = s.mem := by
  rcases walkVerdict_cases r h s with ⟨c, -, e⟩ | ⟨f, -, -, e⟩ | ⟨f, -, -, e⟩ <;>
    rw [e] <;> exact writeHeader_mem s h r

theorem walkOnHeader_mem (r : ParseResult) (h : Word) : (walkOnHeader r h s).mem = s.mem := by
  rw [walkOnHeader]
  split
  · rfl
  · exact walkVerdict_mem _ r h

theorem metaOnHeader_mem (r : ParseResult) (h : Word) (marked : Bool) : (metaOnHeader r h marked s).mem = s.mem := by
  unfold metaOnHeader
  split
  · rfl
  · cases r with
    | invalid c => rfl
    | valid f =>
      dsimp only
      split <;> rfl

theorem headerElement_sourceKept (r : ParseResult) (h : Word) : OutcomeSourceKept s.mem (headerElement r h s) := by
  rw [headerElement]
  cases s.phase with
  | walk => exact walkOnHeader_mem s r h
  | metadata => exact metaOnHeader_mem s r h false
  | _ => rfl

theorem markedElement_sourceKept (h : Word) : OutcomeSourceKept s.mem (markedElement h s) := by
  rw [markedElement]
  cases s.phase with
  | walk => exact walkOnHeader_mem s (parse h) h
  | metadata => exact metaOnHeader_mem s (parse h) h true
  | _ => rfl

/-! ### Instructions -/

theorem execTag_sourceKept (ver rev flags s6 s7 s8 s9 : Byte) :
    OutcomeSourceKept s.mem (execTag ver rev flags s6 s7 s8 s9 s) := by
  rw [execTag]
  cases s.phase with
  | tag =>
    dsimp only
    split <;> rfl
  | _ => rfl

theorem execTagStep_sourceKept : OutcomeSourceKept s.mem (execTagStep s) := by
  rw [execTagStep]
  cases s.phase with
  | tag => exact (tagSkip_sourceKept s s.pos).finish fun _ _ => rfl
  | _ => rfl

theorem execMetaStep_sourceKept : OutcomeSourceKept s.mem (execMetaStep s) := by
  rw [execMetaStep]
  cases s.phase with
  | metadata => exact (metaSkip_sourceKept s s.pos).finish fun _ _ => rfl
  | _ => rfl

theorem execWalkStep_sourceKept : OutcomeSourceKept s.mem (execWalkStep s) := by
  rw [execWalkStep]
  cases s.phase with
  | walk =>
    dsimp only
    split
    · rfl
    · exact (memRead32_sourceKept s s.pos).finish fun h t => walkVerdict_mem t (parse h) h
  | _ => rfl

theorem execStart_sourceKept (n : Nat) : OutcomeSourceKept s.mem (execStart n s) := by
  rw [execStart]
  split <;> rfl

theorem execAbort_sourceKept : OutcomeSourceKept s.mem (execAbort s) := by
  rw [execAbort]
  split <;> rfl

theorem execExtract_sourceKept (v : Word) (startBit width : Nat) :
    OutcomeSourceKept s.mem (execExtract v startBit width s) := by
  rw [execExtract]
  cases extract v startBit width with
  | some n => rfl
  | none => trivial

theorem execParse_sourceKept (h : Word) : OutcomeSourceKept s.mem (execParse h s) := by
  rw [execParse]
  cases parse h <;> rfl

theorem walkLoop_sourceKept (fuel : Nat) : OutcomeSourceKept s.mem (walkLoop fuel s) := by
  induction fuel generalizing s with
  | zero => rfl
  | succ fuel ih =>
    rw [walkLoop]
    split
    · exact (execWalkStep_sourceKept s).andThen ih
    · rfl

theorem execCountframes_sourceKept (n : Nat) : OutcomeSourceKept s.mem (execCountframes n s) := by
  rw [execCountframes]
  split
  · rfl
  · exact ((((execStart_sourceKept s n).andThen execTagStep_sourceKept).andThen execMetaStep_sourceKept).andThen
      fun t => walkLoop_sourceKept t (n + 1)).andThen fun _ => rfl

/-- No instruction stores; the rows left to the last case are the header words without a marker. -/
theorem exec_sourceKept (i : Instr) : OutcomeSourceKept s.mem (exec i s) := by
  cases i with
  | tag ver rev flags s6 s7 s8 s9 => exact execTag_sourceKept s ver rev flags s6 s7 s8 s9
  | metaVbr q bri sri p w => exact markedElement_sourceKept s _
  | metaCbr q bri sri p w => exact markedElement_sourceKept s _
  | start n => exact execStart_sourceKept s n
  | abort => exact execAbort_sourceKept s
  | tagStep => exact execTagStep_sourceKept s
  | metaStep => exact execMetaStep_sourceKept s
  | walkStep => exact execWalkStep_sourceKept s
  | extract v startBit width => exact execExtract_sourceKept s v startBit width
  | parse h => exact execParse_sourceKept s h
  | flen kbps hz padding => rfl
  | fits len rem => rfl
  | tagskip pos => exact (tagSkip_sourceKept s pos).finish fun _ _ => rfl
  | metaskip pos => exact (metaSkip_sourceKept s pos).finish fun _ _ => rfl
  | countframes n => exact execCountframes_sourceKept s n
  | _ => exact headerElement_sourceKept s _ _

/-! ### Steps -/

theorem internalStep_sourceKept : OutcomeSourceKept s.mem (internalStep s) := by
  rw [internalStep]
  cases nextInstr s with
  | none => rfl
  | some i => exact (exec_sourceKept s i).endStep

theorem hostStep_sourceKept (c : HostInput) : OutcomeSourceKept s.mem (hostStep c s) := by
  cases c with
  | quiet => exact internalStep_sourceKept s
  | start n => exact exec_sourceKept s (.start n)
  | abort => exact exec_sourceKept s .abort
  | abortStart n => exact (exec_sourceKept s .abort).andThen fun t => exec_sourceKept t (.start n)
  | hardwareReset => rfl

theorem step_sourceKept : OutcomeSourceKept s.mem (step s) := by
  rw [step, boundary]
  cases s.host with
  | nil => exact internalStep_sourceKept s
  | cons c rest => exact hostStep_sourceKept (s.withHost rest) c

end

/-- Settles O46: no instruction and no step has a store, so every offset reads as before. -/
theorem byteSourceIsNeverWritten : Obligations.ByteSourceIsNeverWritten := by
  have reads : ∀ s t : State, t.mem = s.mem → t.mem = s.mem ∧ ∀ off, t.mem.read off = s.mem.read off :=
    fun s t hmem => ⟨hmem, fun off => by rw [hmem]⟩
  exact ⟨fun i s t h => reads s t ((exec_sourceKept s i).mem_eq h), fun s t h => reads s t ((step_sourceKept s).mem_eq h)⟩

end Sys2Proof.Machine
end

section
/-! The reads of each step and their guards (`20_memory.md` R53, R58): which requests a step puts on the port, why none of
them is refused (R60), and why none fails over a whole source behind a port that serves (R54, R66). -/

namespace Sys2Proof.Machine

open Host

/-! ### The requests of each step -/

theorem walkVerdict_reads (r : ParseResult) (h : Word) (s : State) : (walkVerdict r h s).reads = s.reads := by
  rcases walkVerdict_cases r h s with ⟨c, -, e⟩ | ⟨f, -, -, e⟩ | ⟨f, -, -, e⟩ <;>
    rw [e] <;> exact writeHeader_reads s h r

section
variable {s t : State}

/-- The tag skip asks for ten bytes where ten remain (R141). -/
theorem execTagStep_reads (hp : s.phase = .tag) (h : execTagStep s = .next t) :
    t.reads = if s.size - s.pos < 10 then s.reads else ⟨s.pos, 10⟩ :: s.reads := by
  rw [execTagStep, hp] at h
  dsimp only at h
  rcases tagSkip_cases s.pos s with ⟨e, hnear⟩ | ⟨e, -⟩ | ⟨e, hfar⟩ | ⟨p, e, hfar, -⟩ <;> rw [e] at h <;> cases h
  · rw [if_pos hnear]
  · rw [if_neg (Nat.not_lt.2 hfar)]; rfl
  · rw [if_neg (Nat.not_lt.2 hfar)]; rfl

/-- The metadata-frame skip asks for nothing where fewer than 44 bytes remain (R151). -/
theorem execMetaStep_reads_near (hp : s.phase = .metadata) (hnear : s.size - s.pos < 44)
    (h : execMetaStep s = .next t) : t.reads = s.reads := by
  rw [execMetaStep, hp] at h
  dsimp only at h
  rw [metaSkip_near s.pos s hnear] at h
  cases h
  rfl

/-- Else it asks for the header, and after it for the marker of a frame that fits (R152 to R154). -/
theorem execMetaStep_reads_far (hp : s.phase = .metadata) (hfar : 44 ≤ s.size - s.pos) (h : execMetaStep s = .next t) :
    t.reads = ⟨s.pos, 4⟩ :: s.reads ∨ t.reads = ⟨s.pos + 36, 4⟩ :: ⟨s.pos, 4⟩ :: s.reads := by
  rw [execMetaStep, hp] at h
  dsimp only at h
  rcases metaSkip_cases s.pos s with ⟨-, hnear⟩ | ⟨-, e | e | ⟨w, c, -, -, e⟩ | ⟨w, f, -, -, -, e⟩ |
    ⟨w, f, -, -, -, e | ⟨m, e⟩⟩⟩
  · omega
  all_goals rw [e] at h; cases h
  · exact .inl rfl
  · exact .inl rfl
  · exact .inl rfl
  · exact .inr rfl
  · exact .inr rfl

/-- A Walker iteration asks for four bytes where four remain (R164). -/
theorem execWalkStep_reads (hp : s.phase = .walk) (h : execWalkStep s = .next t) :
    t.reads = if s.size - s.pos < 4 then s.reads else ⟨s.pos, 4⟩ :: s.reads := by
  rcases walkStep_cases s hp with ⟨e, hnear⟩ | ⟨hfar, e | e | ⟨w, -, e⟩⟩ <;> rw [e] at h <;> cases h
  · exact (if_pos hnear).symm
  · exact (if_neg (Nat.not_lt.2 hfar)).symm
  · rw [walkVerdict_reads]
    exact (if_neg (Nat.not_lt.2 hfar)).symm

end

/-- Settles O47: phase by phase, the requests of the step that phase enables. -/
theorem stepsReadOnlyWhatTheyGuard : Obligations.StepsReadOnlyWhatTheyGuard := by
  intro s t hc h
  obtain ⟨u, l, hu, rfl⟩ := step_next_of_noCommand hc h
  refine ⟨fun hp => ?_, fun hp => ?_, fun hp hnear => ?_, fun hp hfar => ?_, fun hb => ?_⟩
  · rw [internalStep_tag s hp] at hu
    obtain ⟨v, hv, rfl⟩ := endStep_next hu
    exact (execTagStep_reads hp hv :)
  · rw [internalStep_walk s hp] at hu
    obtain ⟨v, hv, rfl⟩ := endStep_next hu
    exact (execWalkStep_reads hp hv :)
  · rw [internalStep_metadata s hp] at hu
    obtain ⟨v, hv, rfl⟩ := endStep_next hu
    exact (execMetaStep_reads_near hp hnear hv :)
  · rw [internalStep_metadata s hp] at hu
    obtain ⟨v, hv, rfl⟩ := endStep_next hu
    exact (execMetaStep_reads_far hp hfar hv :)
  · rw [internalStep_quiescent s hb] at hu
    cases hu
    rfl

/-! ### No read is refused -/

section
variable (s : State) (r : Refusal)

theorem execTagStep_not_refused (hp : s.phase = .tag) : execTagStep s ≠ .refused r := by
  rw [execTagStep, hp]
  dsimp only
  rcases tagSkip_cases s.pos s with ⟨e, -⟩ | ⟨e, -⟩ | ⟨e, -⟩ | ⟨p, e, -⟩ <;> rw [e] <;> exact nofun

theorem execMetaStep_not_refused (hp : s.phase = .metadata) : execMetaStep s ≠ .refused r := by
  rw [execMetaStep, hp]
  dsimp only
  rcases metaSkip_cases s.pos s with ⟨e, -⟩ | ⟨-, e | e | ⟨w, c, -, -, e⟩ | ⟨w, f, -, -, -, e⟩ |
    ⟨w, f, -, -, -, e | ⟨m, e⟩⟩⟩ <;> rw [e] <;> exact nofun

theorem execWalkStep_not_refused (hp : s.phase = .walk) : execWalkStep s ≠ .refused r := by
  rcases walkStep_cases s hp with ⟨e, -⟩ | ⟨-, e | e | ⟨w, -, e⟩⟩ <;> rw [e] <;> exact nofun

theorem endStep_not_refused {o : Outcome State Fault Refusal} (h : o ≠ .refused r) : endStep o ≠ .refused r := by
  cases o with
  | next t => exact nofun
  | fault f => exact nofun
  | refused q => exact h

theorem internalStep_not_refused : internalStep s ≠ .refused r := by
  cases hb : s.busy with
  | false =>
    rw [internalStep_quiescent s hb]
    exact nofun
  | true =>
    rcases (busy_iff s).1 hb with hp | hp | hp
    · rw [internalStep_tag s hp]
      exact endStep_not_refused r (execTagStep_not_refused s r hp)
    · rw [internalStep_metadata s hp]
      exact endStep_not_refused r (execMetaStep_not_refused s r hp)
    · rw [internalStep_walk s hp]
      exact endStep_not_refused r (execWalkStep_not_refused s r hp)

theorem andThen_not_refused {o : Outcome State Fault Refusal} {k : State → Outcome State Fault Refusal}
    (h : o ≠ .refused r) (hk : ∀ t, k t ≠ .refused r) : andThen o k ≠ .refused r := by
  cases o with
  | next t => exact hk t
  | fault f => exact nofun
  | refused q => exact h

/-- A START is taken or ignored, never refused (R176). -/
theorem execStart_not_refused (n : Nat) : execStart n s ≠ .refused r := by
  rw [execStart]
  split <;> exact nofun

theorem execAbort_not_refused : execAbort s ≠ .refused r := by
  rw [execAbort]
  split <;> exact nofun

theorem hostStep_not_refused (c : HostInput) : hostStep c s ≠ .refused r := by
  cases c with
  | quiet => exact internalStep_not_refused s r
  | start n => exact execStart_not_refused s r n
  | abort => exact execAbort_not_refused s r
  | abortStart n =>
    exact andThen_not_refused r (execAbort_not_refused s r) fun t => execStart_not_refused t r n
  | hardwareReset => exact nofun

end

/-- Settles O48: the guards of the three internal steps hold before each of their reads, and commands read nothing. -/
theorem noStepIsRefused : Obligations.NoStepIsRefused := by
  intro s r
  rw [step, boundary]
  cases s.host with
  | nil => exact internalStep_not_refused s r
  | cons c rest => exact hostStep_not_refused (s.withHost rest) r c

/-! ### Over a whole source -/

section
variable {s : State} {src : Nat → Byte} (hport : PortServes s) (hsrc : SourceIs s src s.size)
include hport hsrc

theorem memRead32_of_source {off : Nat} (h : off + 4 ≤ s.size) :
    ∃ w, memRead32 off s = .ok w (s.afterRead off 4) :=
  ⟨_, memRead32_served off _ s h (readServed_of_source s src s.size off 4 hport hsrc h)⟩

theorem tagSkip_of_source (pos : Nat) : ∃ p t, tagSkip pos s = .ok p t := by
  by_cases hnear : s.size - pos < 10
  · exact ⟨_, _, tagSkip_near pos s hnear⟩
  · have hfar : 10 ≤ s.size - pos := Nat.not_lt.1 hnear
    exact ⟨_, _, tagSkip_served pos _ s hfar (readServed_of_source s src s.size pos 10 hport hsrc (by omega))⟩

/-- Both reads of the metadata-frame skip are served: the marker of a frame that is read lies inside the source (R153). -/
theorem metaSkip_of_source (pos : Nat) : ∃ p t, metaSkip pos s = .ok p t := by
  by_cases hnear : s.size - pos < 44
  · exact ⟨_, _, metaSkip_near pos s hnear⟩
  have hfar : 44 ≤ s.size - pos := Nat.not_lt.1 hnear
  obtain ⟨w, hw⟩ := memRead32_of_source hport hsrc (off := pos) (by omega)
  rw [metaSkip_far pos s hfar, hw, ok_andThen]
  cases hv : parse w with
  | invalid c => exact ⟨_, _, metaSkipRest_invalid pos w c _ hv⟩
  | valid f =>
    by_cases hfit : headerLength f ≤ s.size - pos
    · have hlong : 0 < headerLength f := by have := (headerLength_range w f hv).1; omega
      obtain ⟨m, hm⟩ := memRead32_of_source (s := (s.afterRead pos 4).writeHeader w (.valid f))
        (portServes_afterRead s pos 4 hport) hsrc (off := pos + 36) (show pos + 36 + 4 ≤ s.size by omega)
      exact ⟨_, _, by rw [metaSkipRest_fits pos w f (s.afterRead pos 4) hv hlong hfit, hm, ok_andThen]⟩
    · exact ⟨_, _, metaSkipRest_short pos w f _ hv (Nat.not_le.1 hfit)⟩

end

/-- A verdict stops the pass or goes on: it is no fault (R166 to R168). -/
theorem walkVerdict_phase_ne_fault (r : ParseResult) (h : Word) (s : State) (hp : s.phase ≠ .fault) :
    (walkVerdict r h s).phase ≠ .fault := by
  rcases walkVerdict_cases r h s with ⟨c, -, e⟩ | ⟨f, -, -, e⟩ | ⟨f, -, -, e⟩ <;> rw [e]
  · exact nofun
  · exact nofun
  · exact (writeHeader_phase s h r).trans_ne hp

section
variable {s : State} {src : Nat → Byte} (hport : PortServes s) (hsrc : SourceIs s src s.size)
include hport hsrc

theorem execTagStep_of_source (hp : s.phase = .tag) : ∃ t, execTagStep s = .next t ∧ t.phase ≠ .fault := by
  obtain ⟨p, u, e⟩ := tagSkip_of_source hport hsrc s.pos
  rw [execTagStep, hp]
  dsimp only
  rw [e]
  exact ⟨_, rfl, nofun⟩

theorem execMetaStep_of_source (hp : s.phase = .metadata) : ∃ t, execMetaStep s = .next t ∧ t.phase ≠ .fault := by
  obtain ⟨p, u, e⟩ := metaSkip_of_source hport hsrc s.pos
  rw [execMetaStep, hp]
  dsimp only
  rw [e]
  exact ⟨_, rfl, nofun⟩

theorem execWalkStep_of_source (hp : s.phase = .walk) : ∃ t, execWalkStep s = .next t ∧ t.phase ≠ .fault := by
  rw [execWalkStep, hp]
  dsimp only
  split
  case isTrue => exact ⟨_, rfl, nofun⟩
  case isFalse hfar =>
    have hin : s.pos + 4 ≤ s.size := by rw [State.rem, headerLen_eq] at hfar; omega
    obtain ⟨w, hw⟩ := memRead32_of_source hport hsrc hin
    have hne : (s.afterRead s.pos 4).phase ≠ .fault := by rw [afterRead_phase, hp]; exact nofun
    rw [hw]
    exact ⟨_, rfl, walkVerdict_phase_ne_fault (parse w) w _ hne⟩

theorem internalStep_of_source (hne : s.phase ≠ .fault) : ∃ t, internalStep s = .next t ∧ t.phase ≠ .fault := by
  cases hb : s.busy with
  | false => exact ⟨s, internalStep_quiescent s hb, hne⟩
  | true =>
    rcases (busy_iff s).1 hb with hp | hp | hp
    · obtain ⟨u, e, hu⟩ := execTagStep_of_source hport hsrc hp
      exact ⟨u.scrub, by rw [internalStep_tag s hp, e]; rfl, hu⟩
    · obtain ⟨u, e, hu⟩ := execMetaStep_of_source hport hsrc hp
      exact ⟨u.scrub, by rw [internalStep_metadata s hp, e]; rfl, hu⟩
    · obtain ⟨u, e, hu⟩ := execWalkStep_of_source hport hsrc hp
      exact ⟨u.scrub, by rw [internalStep_walk s hp, e]; rfl, hu⟩

end

/-- Settles O49: every read of the sequencer's own step is guarded, so served, and no other part of it faults. -/
theorem wholeSourceNeverFaults : Obligations.WholeSourceNeverFaults := by
  intro s src _ hc hne hport hsrc
  rcases hc with hc | ⟨rest, hc⟩
  · rw [StepSafe, step_no_input s hc]
    exact internalStep_of_source hport hsrc hne
  · rw [StepSafe, step_quiet s rest hc]
    exact internalStep_of_source (s := s.withHost rest) hport hsrc hne

end Sys2Proof.Machine
end

section
/-! The decoder and the encoder of header words: each row's word is cut back into the fields it was made of, every word
has a row, and an element's bytes give the element back (R70, R71, R74, R75, R81, R82, R85). -/

namespace Sys2Proof.Machine

/-! ### The fields of the rows' words -/

theorem syncWord_fields (sync : BitVec 11) (rest : BitVec 21) :
    (syncWord sync rest).extractLsb' 21 11 = sync ∧ (syncWord sync rest).extractLsb' 0 21 = rest := by
  simp (disch := decide) only [syncWord, BitVec.extractLsb'_append_eq_of_le, BitVec.extractLsb'_append_eq_of_add_le,
    BitVec.extractLsb'_eq_self, Nat.reduceSub, and_self]

theorem versionWord_fields (ver : BitVec 2) (rest : BitVec 19) :
    (versionWord ver rest).extractLsb' 21 11 = Config.syncValue ∧ (versionWord ver rest).extractLsb' 19 2 = ver ∧
      (versionWord ver rest).extractLsb' 0 19 = rest := by
  simp (disch := decide) only [versionWord, BitVec.extractLsb'_append_eq_of_le, BitVec.extractLsb'_append_eq_of_add_le,
    BitVec.extractLsb'_eq_self, Nat.reduceSub, and_self]

theorem layerWord_fields (layer : BitVec 2) (rest : BitVec 17) :
    (layerWord layer rest).extractLsb' 21 11 = Config.syncValue ∧
      (layerWord layer rest).extractLsb' 19 2 = Config.versionMpeg1 ∧ (layerWord layer rest).extractLsb' 17 2 = layer ∧
      (layerWord layer rest).extractLsb' 0 17 = rest := by
  simp (disch := decide) only [layerWord, BitVec.extractLsb'_append_eq_of_le, BitVec.extractLsb'_append_eq_of_add_le,
    BitVec.extractLsb'_eq_self, Nat.reduceSub, and_self]

theorem bitrateWord_fields (q : BitVec 1) (bri : BitVec 4) (rest : BitVec 12) :
    (bitrateWord q bri rest).extractLsb' 21 11 = Config.syncValue ∧
      (bitrateWord q bri rest).extractLsb' 19 2 = Config.versionMpeg1 ∧
      (bitrateWord q bri rest).extractLsb' 17 2 = Config.layerIII ∧ (bitrateWord q bri rest).extractLsb' 16 1 = q ∧
      (bitrateWord q bri rest).extractLsb' 12 4 = bri ∧ (bitrateWord q bri rest).extractLsb' 0 12 = rest := by
  simp (disch := decide) only [bitrateWord, BitVec.extractLsb'_append_eq_of_le, BitVec.extractLsb'_append_eq_of_add_le,
    BitVec.extractLsb'_eq_self, Nat.reduceSub, and_self]

theorem sampleRateWord_fields (q : BitVec 1) (bri : BitVec 4) (rest : BitVec 10) :
    (sampleRateWord q bri rest).extractLsb' 21 11 = Config.syncValue ∧
      (sampleRateWord q bri rest).extractLsb' 19 2 = Config.versionMpeg1 ∧
      (sampleRateWord q bri rest).extractLsb' 17 2 = Config.layerIII ∧
      (sampleRateWord q bri rest).extractLsb' 16 1 = q ∧ (sampleRateWord q bri rest).extractLsb' 12 4 = bri ∧
      (sampleRateWord q bri rest).extractLsb' 10 2 = 3#2 ∧ (sampleRateWord q bri rest).extractLsb' 0 10 = rest := by
  simp (disch := decide) only [sampleRateWord, BitVec.extractLsb'_append_eq_of_le,
    BitVec.extractLsb'_append_eq_of_add_le, BitVec.extractLsb'_eq_self, Nat.reduceSub, and_self]

/-! ### The decoder on the rows' words -/

theorem validIndexes_iff (bri : BitVec 4) (sri : BitVec 2) :
    validIndexes bri sri = true ↔ bri ≠ 0#4 ∧ bri ≠ 15#4 ∧ sri ≠ 3#2 := by
  simp [validIndexes, and_assoc]

theorem decodeHeader_frameWord (f : FrameBits) (hv : validIndexes f.bri f.sri = true) :
    decodeHeader (frameWord f) = frameRow f.q f.bri f.sri f.p f.w := by
  obtain ⟨h0, h15, h3⟩ := (validIndexes_iff _ _).1 hv
  simp [decodeHeader, frameWord_fields, Config.versionMpeg1, Config.layerIII, h0, h15, h3]

/-! ### What the rows' accessors say of one another -/

theorem validIndexes_of_frameBits {i : Instr} {f : FrameBits} (hf : i.frameBits? = some f) :
    validIndexes f.bri f.sri = true := by
  cases i <;> cases hf <;> rfl

theorem headerWord_of_frameBits {i : Instr} {f : FrameBits} (hf : i.frameBits? = some f) :
    i.headerWord = some (frameWord f) := by
  cases i <;> cases hf <;> rfl

theorem headerWord_of_invalidCause {i : Instr} {c : Cause} (hc : i.invalidCause? = some c) :
    ∃ h, i.headerWord = some h := by
  cases i <;> cases hc <;> exact ⟨_, rfl⟩

theorem frameBits_none_of_invalidCause {i : Instr} {c : Cause} (hc : i.invalidCause? = some c) :
    i.frameBits? = none := by
  cases i <;> cases hc <;> rfl

/-- The phase WALK looks for the frame rows and the invalid rows, and for nothing else (R80). -/
theorem header_row_of_walk {i : Instr} (h : i.decodePhase? = some .walk) :
    (∃ f, i.frameBits? = some f) ∨ ∃ c, i.invalidCause? = some c := by
  have row : (i.decodePhase? == some .walk) = (i.frameBits?.isSome || i.invalidCause?.isSome) := by cases i <;> rfl
  simpa [h, Option.isSome_iff_exists] using row.symm

/-- The bytes of an element of the phase WALK are the bytes of its word (R56, R72). -/
theorem encode_of_walk {i : Instr} {h : Word} (hp : i.decodePhase? = some .walk) (hw : i.headerWord = some h) :
    encode i = wordBytes h := by
  cases i with
  | metaVbr q bri sri p w | metaCbr q bri sri p w => cases hp
  | _ => cases hw <;> rfl

/-- The frame row of a frame's free bits is that row; the pseudo-elements only stand for one (R87). -/
theorem frameRow_of_frameBits {i : Instr} {f : FrameBits} (hf : i.frameBits? = some f) (h128 : i ≠ .frame128)
    (h128p : i ≠ .frame128p) : frameRow f.q f.bri f.sri f.p f.w = .ok i := by
  cases i with
  | frame128 => exact absurd rfl h128
  | frame128p => exact absurd rfl h128p
  | _ => cases hf <;> rfl

/-! ### Decoding an encoded element -/

/-- An invalid row's word passes the checks above the one that fails (R82). -/
theorem decodeHeader_of_invalidCause {i : Instr} {c : Cause} {h : Word} (hwf : i.wf = true)
    (hc : i.invalidCause? = some c) (hw : i.headerWord = some h) : decodeHeader h = .ok i := by
  cases i with
  | invalidSync sync rest =>
    cases hw
    simp [decodeHeader, syncWord_fields, bne_iff_ne.1 hwf]
  | invalidVersion0 rest | invalidVersion1 rest | invalidVersion2 rest =>
    cases hw
    simp [decodeHeader, versionWord_fields]
  | invalidLayer0 rest | invalidLayer2 rest | invalidLayer3 rest =>
    cases hw
    simp [decodeHeader, layerWord_fields, Config.versionMpeg1]
  | invalidBitrateFree q rest | invalidBitrateBad q rest =>
    cases hw
    simp [decodeHeader, bitrateWord_fields, Config.versionMpeg1, Config.layerIII]
  | invalidSampleRate q bri rest =>
    cases hw
    obtain ⟨h0, h15⟩ : bri ≠ 0#4 ∧ bri ≠ 15#4 := by simpa [Instr.wf] using hwf
    simp [decodeHeader, sampleRateWord_fields, Config.versionMpeg1, Config.layerIII, h0, h15]
  | _ => cases hc

/-- A frame's word passes all of them (R81). -/
theorem decodeHeader_of_frameBits {i : Instr} {f : FrameBits} (hf : i.frameBits? = some f) (h128 : i ≠ .frame128)
    (h128p : i ≠ .frame128p) : decodeHeader (frameWord f) = .ok i := by
  rw [decodeHeader_frameWord f (validIndexes_of_frameBits hf), frameRow_of_frameBits hf h128 h128p]

theorem decode_walk_wordBytes (h : Word) (tail : List Byte) : decode .walk (wordBytes h ++ tail) = decodeHeader h :=
  congrArg decodeHeader (be32_wordBytes h)

/-- Phase META finds the marker behind the header and 32 bytes of any value (R75). -/
theorem decode_metadata_marked (b0 b1 b2 b3 m0 m1 m2 m3 : Byte) (gap tail : List Byte) (hgap : gap.length = 32) :
    decode .metadata ([b0, b1, b2, b3] ++ gap ++ ([m0, m1, m2, m3] ++ tail)) =
      decodeMarked (be32 b0 b1 b2 b3) (be32 m0 m1 m2 m3) := by
  have hdrop : (gap ++ ([m0, m1, m2, m3] ++ tail)).drop (Config.metaOffset - Config.headerLen) =
      [m0, m1, m2, m3] ++ tail := List.drop_left' hgap
  simp only [decode, List.cons_append, List.nil_append] at hdrop ⊢
  rw [hdrop]

theorem decode_metadata_wordBytes (h m : Word) (tail : List Byte) :
    decode .metadata (wordBytes h ++ List.replicate 32 0#8 ++ wordBytes m ++ tail) = decodeMarked h m := by
  rw [List.append_assoc]
  refine (decode_metadata_marked _ _ _ _ _ _ _ _ _ tail List.length_replicate).trans ?_
  rw [be32_wordBytes, be32_wordBytes]

theorem isFrameHeader_frameWord (f : FrameBits) (hv : validIndexes f.bri f.sri = true) :
    isFrameHeader (frameWord f) = true := by
  simp [isFrameHeader, frameWord_fields, hv]

theorem decodeMarked_frameWord_vbr (f : FrameBits) (hv : validIndexes f.bri f.sri = true) :
    decodeMarked (frameWord f) Config.markerVbr = .ok (.metaVbr f.q f.bri f.sri f.p f.w) := by
  simp [decodeMarked, isFrameHeader_frameWord f hv, frameWord_fields]

theorem decodeMarked_frameWord_cbr (f : FrameBits) (hv : validIndexes f.bri f.sri = true) :
    decodeMarked (frameWord f) Config.markerCbr = .ok (.metaCbr f.q f.bri f.sri f.p f.w) := by
  have hne : Config.markerCbr ≠ Config.markerVbr := by decide
  simp [decodeMarked, isFrameHeader_frameWord f hv, frameWord_fields, hne]

/-- A frame row or an invalid row, read back in phase WALK. -/
theorem decode_encode_walk (i : Instr) (tail : List Byte) (hwf : i.wf = true) (h128 : i ≠ .frame128)
    (h128p : i ≠ .frame128p) (hp : i.decodePhase? = some .walk) : decode .walk (encode i ++ tail) = .ok i := by
  rcases header_row_of_walk hp with ⟨f, hf⟩ | ⟨c, hc⟩
  · rw [encode_of_walk hp (headerWord_of_frameBits hf), decode_walk_wordBytes]
    exact decodeHeader_of_frameBits hf h128 h128p
  · obtain ⟨h, hw⟩ := headerWord_of_invalidCause hc
    rw [encode_of_walk hp hw, decode_walk_wordBytes]
    exact decodeHeader_of_invalidCause hwf hc hw

/-- Each phase that looks for elements reads back its own (R70, R80). -/
theorem decode_encode (i : Instr) (ph : Phase) (tail : List Byte) (hwf : i.wf = true) (h128 : i ≠ .frame128)
    (h128p : i ≠ .frame128p) (hp : i.decodePhase? = some ph) : decode ph (encode i ++ tail) = .ok i := by
  cases ph with
  | walk => exact decode_encode_walk i tail hwf h128 h128p hp
  | tag =>
    cases i with
    | tag ver rev flags s6 s7 s8 s9 => rfl
    | _ => cases hp
  | metadata =>
    cases i with
    | metaVbr q bri sri p w =>
      exact (decode_metadata_wordBytes _ _ tail).trans (decodeMarked_frameWord_vbr ⟨q, bri, sri, p, w⟩ hwf)
    | metaCbr q bri sri p w =>
      exact (decode_metadata_wordBytes _ _ tail).trans (decodeMarked_frameWord_cbr ⟨q, bri, sri, p, w⟩ hwf)
    | _ => cases hp
  | _ => cases i <;> cases hp

/-- Settles O2: the elements row by row, the internal steps by their code, the pseudo-elements by the frame word they
stand for. -/
theorem decodingAnEncodedElementGivesItBack : Obligations.DecodingAnEncodedElementGivesItBack := by
  refine ⟨decode_encode, fun i c hc => ?_, fun tail => ⟨?_, ?_⟩⟩
  · cases i <;> cases hc <;> rfl
  · exact (decode_walk_wordBytes _ tail).trans (decodeHeader_frameWord ⟨1#1, 9#4, 0#2, 0#1, 0#9⟩ rfl)
  · exact (decode_walk_wordBytes _ tail).trans (decodeHeader_frameWord ⟨1#1, 9#4, 0#2, 1#1, 0#9⟩ rfl)

/-- Settles O1: the words are fixed, so the decoder computes them. -/
theorem specWordsDecodeAsWritten : Obligations.SpecWordsDecodeAsWritten := by
  unfold Obligations.SpecWordsDecodeAsWritten
  decide

/-! ### Every word has a row -/

/-- The decoder answers a well-formed row on every word: its checks leave no word over (R82, R119). -/
theorem decodeHeader_total (h : Word) : ∃ i, decodeHeader h = .ok i ∧ i.wf = true := by
  unfold decodeHeader
  dsimp only
  split_ifs with hs v0 v1 v2 l0 l2 l3 b0 b15 s3
  case pos => exact ⟨_, rfl, bne_iff_ne.2 hs⟩
  iterate 8 case pos => exact ⟨_, rfl, rfl⟩
  case pos => exact ⟨_, rfl, by simp [Instr.wf, b0, b15]⟩
  case neg =>
    obtain ⟨i, hi, hwf, -⟩ := frameRow_ok (h.extractLsb' 16 1) _ _ (h.extractLsb' 9 1) (h.extractLsb' 0 9)
      ((validIndexes_iff _ _).2 ⟨b0, b15, s3⟩)
    exact ⟨i, hi, hwf⟩

/-- A word's own row holds the word. -/
theorem RowOf.headerWord {h : Word} {i : Instr} (hr : RowOf h i) : i.headerWord = some h := by
  rcases hr with ⟨c, -, hw, -⟩ | ⟨b, hf, rfl⟩
  · exact hw
  · exact headerWord_of_frameBits hf

/-- Settles O3: the decoder is total, and what it finds is the word's own row, a frame's or an invalid one. -/
theorem everyWordDecodesWithoutLoss : Obligations.EveryWordDecodesWithoutLoss := by
  intro h
  obtain ⟨i, hd, hwf⟩ := decodeHeader_total h
  have hr := decodeHeader_rowOf h i hd
  refine ⟨i, hd, hwf, hr.headerWord, ?_⟩
  rcases hr with ⟨c, hc, -⟩ | ⟨b, hf, -⟩
  · simp [hc, frameBits_none_of_invalidCause hc]
  · cases hc : i.invalidCause? with
    | none => simp [hf]
    | some c => simp [frameBits_none_of_invalidCause hc] at hf

/-- Both tables have an entry exactly for the indexes of a valid header (R77, R78, R114, R115). -/
theorem tables_iff (bri : BitVec 4) (sri : BitVec 2) :
    (∃ kbps hz, bitrateKbps bri = some kbps ∧ sampleRateHz sri = some hz) ↔ validIndexes bri sri = true := by
  have hk : (∃ kbps, bitrateKbps bri = some kbps) ↔ ¬(bri = 0#4 ∨ bri = 15#4) := by
    rw [← bitrateKbps_none, ← Option.ne_none_iff_exists']
  have hs : (∃ hz, sampleRateHz sri = some hz) ↔ sri ≠ 3#2 := by
    rw [ne_eq, ← sampleRateHz_none, ← Option.ne_none_iff_exists']
  simp only [exists_and_left, exists_and_right, hk, hs, not_or, and_assoc, validIndexes_iff]

/-- Settles O5: the decoder's row is the word's own, and the parser reads a frame row's values from the frame's word. -/
theorem decoderAgreesWithParser : Obligations.DecoderAgreesWithParser := by
  intro h i hd
  rcases decodeHeader_rowOf h i hd with ⟨c, hc, -, hp⟩ | ⟨b, hb, rfl⟩
  · refine ⟨fun f hf => ?_, fun d hd => ?_⟩
    · cases (frameBits_none_of_invalidCause hc).symm.trans hf
    · rw [hp, Option.some.inj (hc.symm.trans hd)]
  · refine ⟨fun f hf => ?_, fun c hc => ?_⟩
    · obtain rfl := Option.some.inj (hb.symm.trans hf)
      obtain ⟨kbps, hz, hk, hs⟩ := (tables_iff _ _).2 (validIndexes_of_frameBits hb)
      exact ⟨kbps, hz, hk, hs, parse_frameWord b kbps hz hk hs⟩
    · cases (frameBits_none_of_invalidCause hc).symm.trans hb

end Sys2Proof.Machine
end

section
/-! The rows of the opcode table as masks, matches and exclusions: each selects exactly the words of its instructions,
so the 52 rows are disjoint, cover every word, and the decoder answers the selecting one (R81, R82, R85). -/

namespace Sys2Proof.Machine

/-! ### Masks as fields -/

/-- The mask of `len` bits from bit `lo` upward. -/
def fieldMask (lo len : Nat) : Word := (BitVec.allOnes len).setWidth 32 <<< lo

/-- Two words agree under a field's mask where they hold the same field. -/
theorem and_fieldMask_eq (h v : Word) (lo len : Nat) :
    h &&& fieldMask lo len = v &&& fieldMask lo len ↔ h.extractLsb' lo len = v.extractLsb' lo len := by
  constructor
  · intro e
    apply BitVec.eq_of_getLsbD_eq
    intro j hj
    have ej := congrArg (·.getLsbD (lo + j)) e
    by_cases h32 : lo + j < 32
    · simpa [fieldMask, hj, h32] using ej
    · simp [hj, BitVec.getLsbD_of_ge _ _ (Nat.not_lt.1 h32)]
  · intro e
    apply BitVec.eq_of_getLsbD_eq
    intro j _
    rw [BitVec.getLsbD_and, BitVec.getLsbD_and]
    by_cases hin : lo ≤ j ∧ j - lo < len
    · obtain ⟨hlo, hlen⟩ := hin
      have ej := congrArg (·.getLsbD (j - lo)) e
      simp only [BitVec.getLsbD_extractLsb', hlen, decide_true, Bool.true_and, Nat.add_sub_cancel' hlo] at ej
      rw [ej]
    · have hout : (fieldMask lo len).getLsbD j = false := by
        simpa [fieldMask] using fun _ hlo _ => Nat.not_lt.1 fun hlen => hin ⟨hlo, hlen⟩
      rw [hout, Bool.and_false, Bool.and_false]

/-- Two words agree under two masks together where they agree under each. -/
theorem and_or_eq (h v a b : Word) : h &&& (a ||| b) = v &&& (a ||| b) ↔ h &&& a = v &&& a ∧ h &&& b = v &&& b := by
  constructor
  · intro e
    have under : ∀ m, (a ||| b) &&& m = m → h &&& m = v &&& m := fun m hm => by
      rw [← hm, ← BitVec.and_assoc, e, BitVec.and_assoc]
    refine ⟨under a ?_, under b ?_⟩ <;> ext j <;> simp +contextual
  · rintro ⟨ea, eb⟩
    rw [BitVec.and_or_distrib_left, BitVec.and_or_distrib_left, ea, eb]

section
variable (h v : Word)

theorem and_syncMask :
    h &&& 0xFFE00000#32 = v &&& 0xFFE00000#32 ↔ h.extractLsb' 21 11 = v.extractLsb' 21 11 :=
  and_fieldMask_eq h v 21 11

theorem and_versionMask :
    h &&& 0xFFF80000#32 = v &&& 0xFFF80000#32 ↔
      h.extractLsb' 21 11 = v.extractLsb' 21 11 ∧ h.extractLsb' 19 2 = v.extractLsb' 19 2 := by
  rw [← and_syncMask, ← and_fieldMask_eq h v 19 2, ← and_or_eq]
  exact Iff.rfl

/-- The fixed part of a frame's word (R81). -/
theorem and_layerMask :
    h &&& 0xFFFE0000#32 = v &&& 0xFFFE0000#32 ↔
      h.extractLsb' 21 11 = v.extractLsb' 21 11 ∧ h.extractLsb' 19 2 = v.extractLsb' 19 2 ∧
        h.extractLsb' 17 2 = v.extractLsb' 17 2 := by
  rw [← and_assoc, ← and_versionMask, ← and_fieldMask_eq h v 17 2, ← and_or_eq]
  exact Iff.rfl

theorem and_bitrateMask :
    h &&& 0xFFFEF000#32 = v &&& 0xFFFEF000#32 ↔
      h &&& 0xFFFE0000#32 = v &&& 0xFFFE0000#32 ∧ h.extractLsb' 12 4 = v.extractLsb' 12 4 := by
  rw [← and_fieldMask_eq h v 12 4, ← and_or_eq]
  exact Iff.rfl

theorem and_sampleRateMask :
    h &&& 0xFFFE0C00#32 = v &&& 0xFFFE0C00#32 ↔
      h &&& 0xFFFE0000#32 = v &&& 0xFFFE0000#32 ∧ h.extractLsb' 10 2 = v.extractLsb' 10 2 := by
  rw [← and_fieldMask_eq h v 10 2, ← and_or_eq]
  exact Iff.rfl

theorem and_frameMask :
    h &&& 0xFFFEFC00#32 = v &&& 0xFFFEFC00#32 ↔
      h &&& 0xFFFEF000#32 = v &&& 0xFFFEF000#32 ∧ h.extractLsb' 10 2 = v.extractLsb' 10 2 := by
  rw [← and_fieldMask_eq h v 10 2, ← and_or_eq]
  exact Iff.rfl

end

/-! ### The valid words -/

/-- The fixed part of a frame's word, as mask and match and as fields (R81). -/
theorem fixed_part_iff (h : Word) :
    h &&& 0xFFFE0000#32 = 0xFFFA0000#32 ↔
      h.extractLsb' 21 11 = Config.syncValue ∧ h.extractLsb' 19 2 = Config.versionMpeg1 ∧
        h.extractLsb' 17 2 = Config.layerIII :=
  and_layerMask h 0xFFFA0000#32

theorem bitrate_bits_iff (h : Word) :
    (h &&& 0x0000F000#32 = 0#32 ↔ h.extractLsb' 12 4 = 0#4) ∧
      (h &&& 0x0000F000#32 = 0x0000F000#32 ↔ h.extractLsb' 12 4 = 15#4) :=
  ⟨and_fieldMask_eq h 0#32 12 4, and_fieldMask_eq h 0x0000F000#32 12 4⟩

theorem sampleRate_bits_iff (h : Word) : h &&& 0x00000C00#32 = 0x00000C00#32 ↔ h.extractLsb' 10 2 = 3#2 :=
  and_fieldMask_eq h 0x00000C00#32 10 2

theorem exists_parse_valid_iff (h : Word) :
    (∃ f, parse h = .valid f) ↔
      h.extractLsb' 21 11 = Config.syncValue ∧ h.extractLsb' 19 2 = Config.versionMpeg1 ∧
        h.extractLsb' 17 2 = Config.layerIII ∧ validIndexes (h.extractLsb' 12 4) (h.extractLsb' 10 2) = true := by
  constructor
  · rintro ⟨f, hf⟩
    obtain ⟨hsync, hver, hlayer, hk, hs, -⟩ := (parse_valid h f).1 hf
    exact ⟨hsync, hver, hlayer, (tables_iff _ _).1 ⟨_, _, hk, hs⟩⟩
  · rintro ⟨hsync, hver, hlayer, hv⟩
    obtain ⟨kbps, hz, hk, hs⟩ := (tables_iff _ _).2 hv
    exact ⟨⟨kbps, hz, _⟩, (parse_valid h _).2 ⟨hsync, hver, hlayer, hk, hs, rfl⟩⟩

/-- Settles O10: a word is valid where its fixed part is a frame's and both tables have its indexes. -/
theorem validWordsAreTheMaskedOnes : Obligations.ValidWordsAreTheMaskedOnes := by
  intro h
  obtain ⟨b0, b15⟩ := bitrate_bits_iff h
  rw [exists_parse_valid_iff, validIndexes_iff, fixed_part_iff, ne_eq (_ &&& _), b0, ne_eq (_ &&& _), b15,
    ne_eq (_ &&& _), sampleRate_bits_iff, and_assoc, and_assoc]

/-! ### The words a row selects -/

theorem selects_iff {m v h : Word} (hv : v &&& m = v) :
    (⟨m, v, false, []⟩ : HeaderRow).selects h = true ↔ h &&& m = v &&& m := by
  simp [HeaderRow.selects, hv]

section
variable {h : Word}

theorem selects_sync :
    (⟨0xFFE00000#32, 0xFFE00000#32, true, []⟩ : HeaderRow).selects h = true ↔
      ∃ sync rest, sync ≠ Config.syncValue ∧ h = syncWord sync rest := by
  have hsel : (⟨0xFFE00000#32, 0xFFE00000#32, true, []⟩ : HeaderRow).selects h = true ↔
      h.extractLsb' 21 11 ≠ Config.syncValue := by
    rw [ne_eq, show Config.syncValue = (0xFFE00000#32).extractLsb' 21 11 from rfl, ← and_syncMask]
    simp [HeaderRow.selects]
  rw [hsel]
  constructor
  · exact fun hne => ⟨_, _, hne, (syncWord_slices h).symm⟩
  · rintro ⟨sync, rest, hne, rfl⟩
    rwa [(syncWord_fields sync rest).1]

theorem selects_version (v : BitVec 2) :
    (⟨0xFFF80000#32, versionWord v 0#19, false, []⟩ : HeaderRow).selects h = true ↔ ∃ rest, h = versionWord v rest := by
  rw [selects_iff (by revert v; decide), and_versionMask]
  simp only [versionWord_fields]
  constructor
  · rintro ⟨hsync, rfl⟩
    exact ⟨_, (versionWord_slices hsync).symm⟩
  · rintro ⟨rest, rfl⟩
    simp only [versionWord_fields, and_self]

theorem selects_layer (l : BitVec 2) :
    (⟨0xFFFE0000#32, layerWord l 0#17, false, []⟩ : HeaderRow).selects h = true ↔ ∃ rest, h = layerWord l rest := by
  rw [selects_iff (by revert l; decide), and_layerMask]
  simp only [layerWord_fields]
  constructor
  · rintro ⟨hsync, hver, rfl⟩
    exact ⟨_, (layerWord_slices hsync hver).symm⟩
  · rintro ⟨rest, rfl⟩
    simp only [layerWord_fields, and_self]

theorem selects_bitrate (b : BitVec 4) :
    (⟨0xFFFEF000#32, bitrateWord 0#1 b 0#12, false, []⟩ : HeaderRow).selects h = true ↔
      ∃ q rest, h = bitrateWord q b rest := by
  rw [selects_iff (by revert b; decide), and_bitrateMask, and_layerMask]
  simp only [bitrateWord_fields]
  constructor
  · rintro ⟨⟨hsync, hver, hlayer⟩, rfl⟩
    exact ⟨_, _, (bitrateWord_slices hsync hver hlayer).symm⟩
  · rintro ⟨q, rest, rfl⟩
    simp only [bitrateWord_fields, and_self]

theorem selects_sampleRate :
    (⟨0xFFFE0C00#32, 0xFFFA0C00#32, false, [(0x0000F000#32, 0x00000000#32), (0x0000F000#32, 0x0000F000#32)]⟩ :
        HeaderRow).selects h = true ↔
      ∃ q bri rest, bri ≠ 0#4 ∧ bri ≠ 15#4 ∧ h = sampleRateWord q bri rest := by
  obtain ⟨b0, b15⟩ := bitrate_bits_iff h
  have hsel : (⟨0xFFFE0C00#32, 0xFFFA0C00#32, false, [(0x0000F000#32, 0x00000000#32), (0x0000F000#32, 0x0000F000#32)]⟩ :
        HeaderRow).selects h = true ↔
      h &&& 0xFFFE0C00#32 = 0xFFFA0C00#32 &&& 0xFFFE0C00#32 ∧ h.extractLsb' 12 4 ≠ 0#4 ∧ h.extractLsb' 12 4 ≠ 15#4 := by
    rw [ne_eq, ← b0, ne_eq, ← b15]
    simp [HeaderRow.selects]
  rw [hsel, and_sampleRateMask, and_layerMask]
  constructor
  · rintro ⟨⟨⟨hsync, hver, hlayer⟩, hsri⟩, h0, h15⟩
    exact ⟨_, _, _, h0, h15, (sampleRateWord_slices hsync hver hlayer hsri).symm⟩
  · rintro ⟨q, bri, rest, h0, h15, rfl⟩
    simp only [sampleRateWord_fields]
    exact ⟨⟨⟨rfl, rfl, rfl⟩, rfl⟩, h0, h15⟩

/-- The match of a frame row is the frame's word with its free bits zero (R85). -/
theorem frameHeaderRow_eq (bri : BitVec 4) (sri : BitVec 2) :
    frameHeaderRow bri.toNat sri.toNat = ⟨0xFFFEFC00#32, frameWord ⟨0#1, bri, sri, 0#1, 0#9⟩, false, []⟩ := by
  have hb := bri.isLt
  have hs := sri.isLt
  rw [frameHeaderRow]
  congr 1
  apply BitVec.eq_of_toNat_eq
  rw [frameWord_toNat, BitVec.toNat_ofNat]
  simp only [BitVec.toNat_ofNat]
  omega

theorem selects_frame (bri : BitVec 4) (sri : BitVec 2) :
    (frameHeaderRow bri.toNat sri.toNat).selects h = true ↔ ∃ q p w, h = frameWord ⟨q, bri, sri, p, w⟩ := by
  rw [frameHeaderRow_eq, selects_iff (by revert bri sri; decide), and_frameMask, and_bitrateMask, and_layerMask]
  simp only [frameWord_fields]
  constructor
  · rintro ⟨⟨⟨hsync, hver, hlayer⟩, rfl⟩, rfl⟩
    exact ⟨_, _, _, (frameWord_slices hsync hver hlayer).symm⟩
  · rintro ⟨q, p, w, rfl⟩
    simp only [frameWord_fields, and_self]

end

/-! ### The rows of the instructions -/

theorem headerRow_of_frameBits {i : Instr} {f : FrameBits} (hf : i.frameBits? = some f) :
    i.headerRow? = some (frameHeaderRow f.bri.toNat f.sri.toNat) := by
  cases i <;> cases hf <;> rfl

theorem validIndexes_range {bri : BitVec 4} {sri : BitVec 2} (hv : validIndexes bri sri = true) :
    1 ≤ bri.toNat ∧ bri.toNat ≤ 14 ∧ sri.toNat ≤ 2 := by
  revert bri sri
  decide

theorem frameRow_mem {bri : BitVec 4} {sri : BitVec 2} (hv : validIndexes bri sri = true) :
    frameHeaderRow bri.toNat sri.toNat ∈ headerRows := by
  obtain ⟨h1, h14, h2⟩ := validIndexes_range hv
  refine List.mem_append_left _ (List.mem_flatMap.2 ⟨bri.toNat - 1, List.mem_range.2 (by omega), ?_⟩)
  exact List.mem_map.2 ⟨sri.toNat, List.mem_range.2 (by omega), by rw [Nat.sub_add_cancel h1]⟩

/-- A row of the 52 is a frame's, of two valid indexes, or one of the ten invalid ones. -/
theorem headerRows_cases {r : HeaderRow} (hr : r ∈ headerRows) :
    (∃ bri sri, validIndexes bri sri = true ∧ r = frameHeaderRow bri.toNat sri.toNat) ∨ r ∈ invalidHeaderRows := by
  rcases List.mem_append.1 hr with hf | hi
  · left
    obtain ⟨i, hi, hm⟩ := List.mem_flatMap.1 hf
    obtain ⟨j, hj, rfl⟩ := List.mem_map.1 hm
    rw [List.mem_range] at hi hj
    refine ⟨BitVec.ofNat 4 (i + 1), BitVec.ofNat 2 j, ?_, ?_⟩
    · interval_cases i <;> interval_cases j <;> rfl
    · rw [BitVec.toNat_ofNat, BitVec.toNat_ofNat, Nat.mod_eq_of_lt (by omega), Nat.mod_eq_of_lt (by omega)]
  · exact .inr hi

theorem invalidRow_of_invalidCause {i : Instr} {c : Cause} (hc : i.invalidCause? = some c) :
    ∃ r ∈ invalidHeaderRows, i.headerRow? = some r := by
  cases i <;> cases hc <;> exact ⟨_, by decide, rfl⟩

/-- The row of an invalid instruction selects its word. -/
theorem selects_of_invalidCause {i : Instr} {c : Cause} {h : Word} {r : HeaderRow} (hwf : i.wf = true)
    (hc : i.invalidCause? = some c) (hw : i.headerWord = some h) (hr : i.headerRow? = some r) : r.selects h = true := by
  cases i with
  | invalidSync sync rest => cases hr; cases hw; exact selects_sync.2 ⟨sync, rest, bne_iff_ne.1 hwf, rfl⟩
  | invalidVersion0 rest => cases hr; cases hw; exact (selects_version 0b00#2).2 ⟨rest, rfl⟩
  | invalidVersion1 rest => cases hr; cases hw; exact (selects_version 0b01#2).2 ⟨rest, rfl⟩
  | invalidVersion2 rest => cases hr; cases hw; exact (selects_version 0b10#2).2 ⟨rest, rfl⟩
  | invalidLayer0 rest => cases hr; cases hw; exact (selects_layer 0b00#2).2 ⟨rest, rfl⟩
  | invalidLayer2 rest => cases hr; cases hw; exact (selects_layer 0b10#2).2 ⟨rest, rfl⟩
  | invalidLayer3 rest => cases hr; cases hw; exact (selects_layer 0b11#2).2 ⟨rest, rfl⟩
  | invalidBitrateFree q rest => cases hr; cases hw; exact (selects_bitrate 0#4).2 ⟨q, rest, rfl⟩
  | invalidBitrateBad q rest => cases hr; cases hw; exact (selects_bitrate 15#4).2 ⟨q, rest, rfl⟩
  | invalidSampleRate q bri rest =>
    cases hr
    cases hw
    obtain ⟨h0, h15⟩ : bri ≠ 0#4 ∧ bri ≠ 15#4 := by simpa [Instr.wf] using hwf
    exact selects_sampleRate.2 ⟨q, bri, rest, h0, h15, rfl⟩
  | _ => cases hc

/-- The row of a word's own instruction is one of the 52 and selects the word. -/
theorem RowOf.selects {h : Word} {i : Instr} (hr : RowOf h i) (hwf : i.wf = true) :
    ∃ r ∈ headerRows, i.headerRow? = some r ∧ r.selects h = true := by
  rcases hr with ⟨c, hc, hw, -⟩ | ⟨f, hf, rfl⟩
  · obtain ⟨r, hmem, hrow⟩ := invalidRow_of_invalidCause hc
    exact ⟨r, List.mem_append_right _ hmem, hrow, selects_of_invalidCause hwf hc hw hrow⟩
  · exact ⟨_, frameRow_mem (validIndexes_of_frameBits hf), headerRow_of_frameBits hf,
      (selects_frame _ _).2 ⟨f.q, f.p, f.w, rfl⟩⟩

/-- A word that an invalid row selects is decoded to an instruction of that row. -/
theorem decodeHeader_of_invalidRow {h : Word} {r : HeaderRow} (hr : r ∈ invalidHeaderRows) (hs : r.selects h = true) :
    ∃ i, decodeHeader h = .ok i ∧ i.headerRow? = some r := by
  simp only [invalidHeaderRows, List.mem_cons, List.not_mem_nil, or_false] at hr
  rcases hr with rfl | rfl | rfl | rfl | rfl | rfl | rfl | rfl | rfl | rfl
  · obtain ⟨sync, rest, hne, rfl⟩ := selects_sync.1 hs
    exact ⟨.invalidSync sync rest, decodeHeader_of_invalidCause (bne_iff_ne.2 hne) rfl rfl, rfl⟩
  · obtain ⟨rest, rfl⟩ := (selects_version 0b00#2).1 hs
    exact ⟨.invalidVersion0 rest, decodeHeader_of_invalidCause rfl rfl rfl, rfl⟩
  · obtain ⟨rest, rfl⟩ := (selects_version 0b01#2).1 hs
    exact ⟨.invalidVersion1 rest, decodeHeader_of_invalidCause rfl rfl rfl, rfl⟩
  · obtain ⟨rest, rfl⟩ := (selects_version 0b10#2).1 hs
    exact ⟨.invalidVersion2 rest, decodeHeader_of_invalidCause rfl rfl rfl, rfl⟩
  · obtain ⟨rest, rfl⟩ := (selects_layer 0b00#2).1 hs
    exact ⟨.invalidLayer0 rest, decodeHeader_of_invalidCause rfl rfl rfl, rfl⟩
  · obtain ⟨rest, rfl⟩ := (selects_layer 0b10#2).1 hs
    exact ⟨.invalidLayer2 rest, decodeHeader_of_invalidCause rfl rfl rfl, rfl⟩
  · obtain ⟨rest, rfl⟩ := (selects_layer 0b11#2).1 hs
    exact ⟨.invalidLayer3 rest, decodeHeader_of_invalidCause rfl rfl rfl, rfl⟩
  · obtain ⟨q, rest, rfl⟩ := (selects_bitrate 0#4).1 hs
    exact ⟨.invalidBitrateFree q rest, decodeHeader_of_invalidCause rfl rfl rfl, rfl⟩
  · obtain ⟨q, rest, rfl⟩ := (selects_bitrate 15#4).1 hs
    exact ⟨.invalidBitrateBad q rest, decodeHeader_of_invalidCause rfl rfl rfl, rfl⟩
  · obtain ⟨q, bri, rest, h0, h15, rfl⟩ := selects_sampleRate.1 hs
    exact ⟨.invalidSampleRate q bri rest, decodeHeader_of_invalidCause (by simp [Instr.wf, h0, h15]) rfl rfl, rfl⟩

/-- A word that one of the 52 rows selects is decoded to an instruction of that row. -/
theorem decodeHeader_of_selects {h : Word} {r : HeaderRow} (hr : r ∈ headerRows) (hs : r.selects h = true) :
    ∃ i, decodeHeader h = .ok i ∧ i.headerRow? = some r := by
  rcases headerRows_cases hr with ⟨bri, sri, hv, rfl⟩ | hi
  · obtain ⟨q, p, w, rfl⟩ := (selects_frame bri sri).1 hs
    obtain ⟨i, hrow, -, hf, -⟩ := frameRow_ok q bri sri p w hv
    have hr' := headerRow_of_frameBits hf
    exact ⟨i, (decodeHeader_frameWord ⟨q, bri, sri, p, w⟩ hv).trans hrow, hr'⟩
  · exact decodeHeader_of_invalidRow hi hs

/-- Settles O4: every row that selects a word is the row of what the decoder answers, and the decoder answers once. -/
theorem headerRowsAreDisjointAndCover : Obligations.HeaderRowsAreDisjointAndCover := by
  refine ⟨rfl, fun h => ?_⟩
  obtain ⟨i, hd, hwf⟩ := decodeHeader_total h
  obtain ⟨r, hmem, hrow, hsel⟩ := (decodeHeader_rowOf h i hd).selects hwf
  refine ⟨i, r, hd, hrow, hmem, hsel, fun r' hmem' hsel' => ?_⟩
  obtain ⟨j, hj, hrow'⟩ := decodeHeader_of_selects hmem' hsel'
  obtain rfl := Except.ok.inj (hd.symm.trans hj)
  exact Option.some.inj (hrow'.symm.trans hrow)

end Sys2Proof.Machine
end

section
/-! The elements of the stream as instructions: what each does in the phase that looks for it, and that a step of the
sequencer runs the element whose bytes stand at POS (R70, R80, R85 to R87). -/

namespace Sys2Proof.Machine

open Host

/-! ### The fetched element and the internal step -/

/-- Settles O39: phase by phase, the element the fetch finds runs as the step that reads it. -/
theorem elementsAgreeWithTheStepOfTheirPhase : Obligations.ElementsAgreeWithTheStepOfTheirPhase := by
  intro s i hi
  rw [nextInstr] at hi
  cases hp : s.phase <;> rw [hp] at hi <;> cases hi
  case tag => exact ⟨.tagStep, rfl, exec_nextTag s hp⟩
  case metadata => exact ⟨.metaStep, rfl, exec_nextMeta s hp⟩
  case walk => exact ⟨.walkStep, rfl, exec_nextWalk s hp⟩

/-! ### The tag -/

/-- Settles O21: in its phase the guard decides (R141), in the others nothing looks for a tag. -/
theorem tagElementIsSkippedNotCounted : Obligations.TagElementIsSkippedNotCounted := by
  intro ver rev flags s6 s7 s8 s9 s
  have run : exec (.tag ver rev flags s6 s7 s8 s9) s = execTag ver rev flags s6 s7 s8 s9 s := rfl
  rw [run, execTag, State.rem]
  refine ⟨fun hp hfar => ?_, fun hp hnear => ?_, fun hp => ?_⟩
  · rw [hp]
    exact if_neg (Nat.not_lt.2 hfar)
  · rw [hp]
    exact if_pos hnear
  · cases hq : s.phase with
    | tag => exact absurd hq hp
    | _ => rfl

/-! ### Header words in the phase WALK -/

section
variable {s : State} {h : Word}

theorem walkOnHeader_fits (f : FrameHeader) (h0 : 0 < headerLength f) (hlen : 4 ≤ s.size - s.pos)
    (hfits : headerLength f ≤ s.size - s.pos) :
    walkOnHeader (.valid f) h s =
      { afterValidHeader s h f with
        reads := ⟨s.pos, 4⟩ :: s.reads, port := s.port.tail, cnt := s.cnt + 1, pos := s.pos + headerLength f } := by
  rw [walkOnHeader_far _ _ _ hlen, walkVerdict_fits f h (s.afterRead s.pos 4) h0 hfits]
  rfl

theorem walkOnHeader_truncated (f : FrameHeader) (hlen : 4 ≤ s.size - s.pos)
    (hshort : s.size - s.pos < headerLength f) :
    walkOnHeader (.valid f) h s =
      { afterValidHeader s h f with
        reads := ⟨s.pos, 4⟩ :: s.reads, port := s.port.tail, stop := .truncatedFrame, phase := .done } := by
  rw [walkOnHeader_far _ _ _ hlen, walkVerdict_short f h (s.afterRead s.pos 4) hshort]
  rfl

theorem walkOnHeader_invalid (c : Cause) (hlen : 4 ≤ s.size - s.pos) :
    walkOnHeader (.invalid c) h s =
      { s with
        hdr := h, fhValid := false, reads := ⟨s.pos, 4⟩ :: s.reads, port := s.port.tail, invCause := c,
        stop := .invalidHeader, phase := .done } := by
  rw [walkOnHeader_far _ _ _ hlen, walkVerdict_invalid]
  rfl

end

/-- Settles O27: a frame row runs its word with the parser's verdict, whose length is at least 96 bytes (R133). -/
theorem audioFramesAreCountedAndSteppedOver : Obligations.AudioFramesAreCountedAndSteppedOver := by
  intro i f s hf hp
  obtain ⟨kbps, hz, hk, hs⟩ := (tables_iff _ _).2 (validIndexes_of_frameBits hf)
  have hv := parse_frameWord f kbps hz hk hs
  obtain ⟨hlong, -⟩ := headerLength_range _ _ hv
  have run : exec i s = .next (walkOnHeader (.valid ⟨kbps, hz, f.p⟩) (frameWord f) s) := by
    rw [exec_of_frameBits i f s hf, hv, headerElement_walk _ _ _ hp]
  refine ⟨kbps, hz, headerLength ⟨kbps, hz, f.p⟩, hk, hs, rfl, ?_⟩
  rw [run]
  refine ⟨fun hfits => ?_, fun hfar hshort => ?_, fun hnear => ?_⟩
  · rw [walkOnHeader_fits _ (by omega) (by omega) hfits]
  · rw [walkOnHeader_truncated _ hfar hshort]
  · rw [walkOnHeader_near _ _ _ hnear]

/-- Settles O29: an invalid row runs its word with its cause as the verdict, phase by phase. -/
theorem invalidWordsEndThePassWithTheirCause : Obligations.InvalidWordsEndThePassWithTheirCause := by
  intro i c s hc
  obtain ⟨h, hw⟩ := headerWord_of_invalidCause hc
  refine ⟨h, hw, ?_⟩
  rw [exec_of_invalidCause i c h s hc hw]
  refine ⟨fun hp hfar => ?_, fun hp hnear => ?_, fun hp hfar => ?_, fun hp hnear => ?_, fun hw hm => ?_⟩
  · rw [headerElement_walk _ _ _ hp, walkOnHeader_invalid c hfar]
  · rw [headerElement_walk _ _ _ hp, walkOnHeader_near _ _ _ hnear]
  · rw [headerElement_meta _ _ _ hp, metaOnHeader_invalid _ _ _ _ hfar]
    rfl
  · rw [headerElement_meta _ _ _ hp, metaOnHeader_near _ _ _ _ hnear]
  · exact headerElement_other _ _ _ hw hm

/-! ### FRAME lines -/

/-- The bytes of a FRAME line whose indexes have table entries (R86). -/
theorem expand_frame {br : BitVec 4} {sr : BitVec 2} {kbps hz : Nat} (pad prot : BitVec 1) (low : BitVec 9) (b : Byte)
    (hk : bitrateKbps br = some kbps) (hs : sampleRateHz sr = some hz) :
    (StreamLine.frame br sr pad prot low b).expand =
      some (wordBytes (frameWord ⟨prot, br, sr, pad, low⟩) ++
        List.replicate (headerLength ⟨kbps, hz, pad⟩ - 4) b) := by
  rw [StreamLine.expand, lineLength, hk, hs]
  rfl

theorem expand_frame_length {br : BitVec 4} {sr : BitVec 2} {kbps hz : Nat} (pad prot : BitVec 1) (low : BitVec 9)
    (b : Byte) (hk : bitrateKbps br = some kbps) (hs : sampleRateHz sr = some hz) :
    (StreamLine.frame br sr pad prot low b).expand.map List.length = some (headerLength ⟨kbps, hz, pad⟩) := by
  have hlong : 96 ≤ headerLength ⟨kbps, hz, pad⟩ :=
    (headerLength_range _ _ (parse_frameWord ⟨prot, br, sr, pad, low⟩ kbps hz hk hs)).1
  have h4 : ∀ h : Word, (wordBytes h).length = 4 := fun _ => rfl
  rw [expand_frame pad prot low b hk hs, Option.map_some, List.length_append, h4, List.length_replicate,
    Nat.add_sub_cancel' (by omega)]

/-- Settles O57: the line's first word is the frame's, and the frame is long enough to hold it (R133). -/
theorem frameLinesExpandToFrames : Obligations.FrameLinesExpandToFrames := by
  refine ⟨fun br sr pad prot low b kbps hz hk hs => ?_, ?_, ?_⟩
  · have hv := (tables_iff br sr).1 ⟨kbps, hz, hk, hs⟩
    have hexp := expand_frame pad prot low b hk hs
    have hlen := expand_frame_length pad prot low b hk hs
    obtain ⟨i, hrow, -, hf, -⟩ := frameRow_ok prot br sr pad low hv
    rw [hexp] at hlen
    refine ⟨_, i, hexp, Option.some.inj hlen, ?_, hf⟩
    rw [decode_walk_wordBytes, decodeHeader_frameWord ⟨prot, br, sr, pad, low⟩ hv, hrow]
  · exact expand_frame_length (kbps := 128) (hz := 44100) 0#1 1#1 0#9 0#8 rfl rfl
  · exact expand_frame_length (kbps := 128) (hz := 44100) 1#1 1#1 0#9 0#8 rfl rfl

/-! ### A step runs the element at POS -/

theorem step_of_nextInstr {s : State} {i : Instr} (hh : s.host = []) (hi : nextInstr s = some i) :
    step s = endStep (exec i s) := by
  rw [step_no_input s hh, internalStep, hi]

theorem nextInstr_of_tag {s : State} {t : Nat → Byte} {i : Instr} (hp : s.phase = .tag) (hfar : 10 ≤ s.size - s.pos)
    (hs : ReadServed s s.pos 10 t) (hd : decode .tag ((List.range 10).map t) = .ok i) : nextInstr s = some i := by
  rw [nextInstr, hp]
  dsimp only
  rw [nextTag, State.rem, Config.tagHdrLen, if_neg (Nat.not_lt.2 hfar),
    memRead_served s.pos 10 t s (by omega) (by omega) hs]
  dsimp only
  rw [hd, elementOr]

theorem nextInstr_of_walk {s : State} {b : Nat → Byte} {i : Instr} (hp : s.phase = .walk) (hfar : 4 ≤ s.size - s.pos)
    (hs : ReadServed s s.pos 4 b) (hd : decode .walk ((List.range 4).map b) = .ok i) : nextInstr s = some i := by
  have hd' : decodeHeader (wordOf b) = .ok i := hd
  rw [nextInstr, hp]
  dsimp only
  rw [nextWalk, State.rem, Config.headerLen, if_neg (Nat.not_lt.2 hfar), memRead32_served s.pos b s (by omega) hs]
  dsimp only
  rw [hd', elementOr]

theorem nextInstr_of_metadata {s : State} {b m : Nat → Byte} {f : FrameHeader} {gap : List Byte} {i : Instr}
    (hp : s.phase = .metadata) (hfar : 44 ≤ s.size - s.pos) (hs : ReadServed s s.pos 4 b)
    (hv : parse (wordOf b) = .valid f) (hfits : headerLength f ≤ s.size - s.pos)
    (hm : ReadServed { s with port := s.port.tail } (s.pos + 36) 4 m) (hgap : gap.length = 32)
    (hd : decode .metadata ((List.range 4).map b ++ gap ++ (List.range 4).map m) = .ok i) : nextInstr s = some i := by
  have hd' : decodeMarked (wordOf b) (wordOf m) = .ok i :=
    (decode_metadata_marked (b 0) (b 1) (b 2) (b 3) (m 0) (m 1) (m 2) (m 3) gap [] hgap).symm.trans hd
  obtain ⟨hlong, -⟩ := headerLength_range _ _ hv
  have hfit : headerFits (wordOf b) (s.size - s.pos) = true := by
    rw [headerFits, hv]
    exact (fits_iff _ _).2 ⟨by omega, hfits⟩
  have hm' : ReadServed (s.afterRead s.pos 4) (s.pos + 36) 4 m := hm
  rw [nextInstr, hp]
  dsimp only
  rw [nextMeta, State.rem, Config.metaMin, if_neg (Nat.not_lt.2 hfar), memRead32_served s.pos b s (by omega) hs]
  dsimp only
  rw [if_pos hfit, Config.metaOffset, memRead32_served (s.pos + 36) m (s.afterRead s.pos 4) (by simp; omega) hm']
  dsimp only
  rw [hd', elementOr]

/-- Settles O38: in each phase the fetch finds what the served bytes decode to, and a quiet boundary only uses its input
up. -/
theorem stepRunsTheDecodedInstruction : Obligations.StepRunsTheDecodedInstruction := by
  refine ⟨?_, ?_, ?_, fun s i => step_of_nextInstr, step_no_input, step_quiet, ?_⟩
  · intro s t i hh hp hfar hs hd
    exact step_of_nextInstr hh (nextInstr_of_tag hp hfar hs hd)
  · intro s b i hh hp hfar hs hd
    exact step_of_nextInstr hh (nextInstr_of_walk hp hfar hs hd)
  · intro s b m f gap i hh hp hfar hs hv hfits hm hgap hd
    exact step_of_nextInstr hh (nextInstr_of_metadata hp hfar hs hv hfits hm hgap hd)
  · intro s rest i hh hi
    have hi' : nextInstr (s.withHost rest) = some i := hi
    rw [step_quiet s rest hh, internalStep, hi']
    rfl

end Sys2Proof.Machine
end

section
/-! The extractor inside its precondition and outside it (R100 to R103): the shift and the remainder of the model are the
shift and the mask of R100's pseudocode, and the field's bits are the word's. -/

namespace Sys2Proof.Machine

open Host

/-! ### The precondition -/

theorem extractInRange_iff (b w : Nat) : extractInRange b w = true ↔ b ≤ 31 ∧ w ≤ 31 ∧ w ≤ b + 1 := by
  simp only [extractInRange, Bool.and_eq_true, decide_eq_true_eq, and_assoc]

/-! ### The field -/

theorem extractBits_lt (v : Word) (b w : Nat) : extractBits v b w < 2 ^ w :=
  Nat.mod_lt _ (Nat.two_pow_pos w)

theorem extractBits_eq_shift_mask (v : Word) (b w : Nat) :
    extractBits v b w = (v.toNat >>> (b + 1 - w)) &&& ((1 <<< w) - 1) := by
  rw [extractBits, Nat.one_shiftLeft, Nat.and_two_pow_sub_one_eq_mod]

theorem testBit_extractBits (v : Word) (b w k : Nat) (hk : k < w) :
    (extractBits v b w).testBit k = v.getLsbD (b + 1 - w + k) := by
  rw [extractBits_slice v b w _ rfl, BitVec.testBit_toNat, BitVec.getLsbD_extractLsb', decide_eq_true hk, Bool.true_and]

/-! ### The instruction -/

theorem exec_extract_inRange (v : Word) (b w : Nat) (s : State) (h : extractInRange b w = true) :
    exec (.extract v b w) s = .next { s with fout := .bits (extractBits v b w) } := by
  show execExtract v b w s = _
  rw [execExtract, extract, if_pos h]

theorem exec_extract_outOfRange (v : Word) (b w : Nat) (s : State) (h : ¬ extractInRange b w = true) :
    exec (.extract v b w) s = .refused .extractOutsidePrecondition := by
  show execExtract v b w s = _
  rw [execExtract, extract, if_neg h]

/-- Settles O6: inside R101 the result is the extractor's field, whose value, bound and bits are stated one by one. -/
theorem extractReturnsTheField : Obligations.ExtractReturnsTheField := by
  refine ⟨?_, fun s => ?_⟩
  · intro v b w s hb hw hwb
    have hin : extractInRange b w = true := (extractInRange_iff b w).2 ⟨hb, hw, hwb⟩
    exact ⟨extractBits v b w, exec_extract_inRange v b w s hin, extractBits_lt v b w, extractBits_eq_shift_mask v b w,
      testBit_extractBits v b w⟩
  · have hfield : extractBits 0xFFFB9200#32 15 4 = 9 := by decide
    rw [exec_extract_inRange _ _ _ s (by decide), hfield]

/-- Settles O7: each of the three ways out of R101 fails the precondition's test. -/
theorem extractOutsideItsRangeIsRefused : Obligations.ExtractOutsideItsRangeIsRefused := by
  intro v b w s hout
  refine exec_extract_outOfRange v b w s fun hin => ?_
  obtain ⟨hb, hw, hwb⟩ := (extractInRange_iff b w).1 hin
  omega

end Sys2Proof.Machine
end

section
/-! PARSE as an instruction: each of the five checks with the cause of the first that fails, the table values where all
pass, and the bits the verdict does not depend on (R110 to R120). -/

namespace Sys2Proof.Machine

open Host

/-! ### The first failing check -/

section
variable {h : Word}

theorem parse_sync_failed (hsync : h.extractLsb' 21 11 ≠ Config.syncValue) : parse h = .invalid .sync := by
  rw [parse_eq, if_pos hsync]

variable (hsync : h.extractLsb' 21 11 = Config.syncValue)
include hsync

theorem parse_version_failed (hver : h.extractLsb' 19 2 ≠ Config.versionMpeg1) : parse h = .invalid .version := by
  rw [parse_eq, if_neg (not_not.2 hsync), if_pos hver]

variable (hver : h.extractLsb' 19 2 = Config.versionMpeg1)
include hver

theorem parse_layer_failed (hlayer : h.extractLsb' 17 2 ≠ Config.layerIII) : parse h = .invalid .layer := by
  rw [parse_eq, if_neg (not_not.2 hsync), if_neg (not_not.2 hver), if_pos hlayer]

variable (hlayer : h.extractLsb' 17 2 = Config.layerIII)
include hlayer

theorem parse_bitrate_failed (hbr : h.extractLsb' 12 4 = 0#4 ∨ h.extractLsb' 12 4 = 15#4) :
    parse h = .invalid .bitrate := by
  rw [parse_eq, if_neg (not_not.2 hsync), if_neg (not_not.2 hver), if_neg (not_not.2 hlayer),
    (bitrateKbps_none _).2 hbr]

theorem parse_sampleRate_failed {kbps : Nat} (hk : bitrateKbps (h.extractLsb' 12 4) = some kbps)
    (hsr : h.extractLsb' 10 2 = 3#2) : parse h = .invalid .sampleRate := by
  rw [parse_eq, if_neg (not_not.2 hsync), if_neg (not_not.2 hver), if_neg (not_not.2 hlayer), hk,
    (sampleRateHz_none _).2 hsr]

end

/-! ### The instruction -/

theorem exec_parse_invalid {h : Word} {c : Cause} (hv : parse h = .invalid c) (s : State) :
    exec (.parse h) s = .next { s with fhValid := false, fout := .header (.invalid c) } := by
  show execParse h s = _
  rw [execParse, hv]

theorem exec_parse_valid {h : Word} {f : FrameHeader} (hv : parse h = .valid f) (s : State) :
    exec (.parse h) s =
      .next { s with
              fhValid := true
              fhBr := BitVec.ofNat 9 f.kbps
              fhSr := BitVec.ofNat 16 f.hz
              fhPad := f.padding
              fout := .header (.valid f) } := by
  show execParse h s = _
  rw [execParse, hv]

/-- PARSE sees the word through the parser's verdict only. -/
theorem exec_parse_congr {h k : Word} (hv : parse h = parse k) (s : State) : exec (.parse h) s = exec (.parse k) s := by
  show execParse h s = execParse k s
  rw [execParse, execParse, hv]

/-- Settles O8: each failing check has its own verdict, and where all pass both tables have an entry. -/
theorem parseReportsTheFirstFailingCheck : Obligations.ParseReportsTheFirstFailingCheck := by
  refine ⟨fun h s => ⟨?_, ?_, ?_, ?_, ?_, ?_⟩, by decide⟩
  · exact fun hsync => exec_parse_invalid (parse_sync_failed hsync) s
  · exact fun hsync hver => exec_parse_invalid (parse_version_failed hsync hver) s
  · exact fun hsync hver hlayer => exec_parse_invalid (parse_layer_failed hsync hver hlayer) s
  · exact fun hsync hver hlayer hbr => exec_parse_invalid (parse_bitrate_failed hsync hver hlayer hbr) s
  · intro hsync hver hlayer h0 h15 hsr
    obtain ⟨kbps, hk⟩ := Option.ne_none_iff_exists'.1 (mt (bitrateKbps_none _).1 (not_or.2 ⟨h0, h15⟩))
    exact exec_parse_invalid (parse_sampleRate_failed hsync hver hlayer hk hsr) s
  · intro hsync hver hlayer h0 h15 h3
    obtain ⟨kbps, hz, hk, hs⟩ := (tables_iff _ _).2 ((validIndexes_iff _ _).2 ⟨h0, h15, h3⟩)
    exact ⟨kbps, hz, hk, hs, exec_parse_valid ((parse_valid h ⟨kbps, hz, _⟩).2 ⟨hsync, hver, hlayer, hk, hs, rfl⟩) s⟩

/-! ### The ignored bits -/

/-- A mask that is all ones over a field leaves the field as it is. -/
theorem extractLsb'_and_of_allOnes {m : Word} {lo len : Nat} (hm : m.extractLsb' lo len = BitVec.allOnes len)
    (h : Word) : (h &&& m).extractLsb' lo len = h.extractLsb' lo len := by
  rw [BitVec.extractLsb'_and, hm, BitVec.and_allOnes]

/-- The mask clears bit 16 and bits 8:0, none of which is in a field of the parser (R73). -/
theorem parse_ignoredBits_cleared (h : Word) : parse (h &&& 0xFFFEFE00#32) = parse h := by
  apply parse_congr <;> exact extractLsb'_and_of_allOnes (by decide) h

theorem exists_parse_invalid {h : Word} (hno : ∀ f, parse h ≠ .valid f) : ∃ c, c ≠ Cause.none ∧ parse h = .invalid c := by
  cases hv : parse h with
  | invalid c => exact ⟨c, parse_invalid_ne h c hv, rfl⟩
  | valid f => exact absurd hv (hno f)

/-- Settles O9: the mask keeps every field the parser looks at, and a valid word passes all the checks. -/
theorem parseDoesNotSeeTheIgnoredBits : Obligations.ParseDoesNotSeeTheIgnoredBits := by
  refine ⟨fun h s => exec_parse_congr (parse_ignoredBits_cleared h).symm s,
    fun h => (parse_ignoredBits_cleared h).symm, fun h hbad => exists_parse_invalid fun f hf => ?_⟩
  obtain ⟨hsync, hver, hlayer, hv⟩ := (exists_parse_valid_iff h).1 ⟨f, hf⟩
  obtain ⟨h0, h15, h3⟩ := (validIndexes_iff _ _).1 hv
  rcases hbad with e | e | e | e | e | e
  · exact h0 e
  · exact h15 e
  · exact h3 e
  · exact e hsync
  · exact e hver
  · exact e hlayer

/-! ### Synthetic headers -/

/-- The tables of R77 and R78 as lists, by the index's number. -/
theorem bitrateKbps_ofNat {i : Nat} (h1 : 1 ≤ i) (h14 : i ≤ 14) :
    [0, 32, 40, 48, 56, 64, 80, 96, 112, 128, 160, 192, 224, 256, 320][i]? = bitrateKbps (BitVec.ofNat 4 i) := by
  interval_cases i <;> rfl

theorem sampleRateHz_ofNat {j : Nat} (h2 : j ≤ 2) :
    [44100, 48000, 32000][j]? = sampleRateHz (BitVec.ofNat 2 j) := by
  interval_cases j <;> rfl

theorem validIndexes_ofNat {i j : Nat} (h1 : 1 ≤ i) (h14 : i ≤ 14) (h2 : j ≤ 2) :
    validIndexes (BitVec.ofNat 4 i) (BitVec.ofNat 2 j) = true := by
  rw [validIndexes_iff]
  refine ⟨?_, ?_, ?_⟩ <;> simp only [ne_eq, ← BitVec.toNat_inj, BitVec.toNat_ofNat] <;> omega

/-- The sum of the fields is the frame's word (R71). -/
theorem fieldSum_eq_frameWord {i j : Nat} (q p : BitVec 1) (w : BitVec 9) (hi : i < 16) (hj : j < 4) :
    0xFFE00000#32 + BitVec.ofNat 32 (3 * 2 ^ 19 + 1 * 2 ^ 17 + q.toNat * 2 ^ 16 + i * 2 ^ 12 + j * 2 ^ 10 +
      p.toNat * 2 ^ 9 + w.toNat) = frameWord ⟨q, BitVec.ofNat 4 i, BitVec.ofNat 2 j, p, w⟩ := by
  apply BitVec.eq_of_toNat_eq
  have hq := q.isLt
  have hp := p.isLt
  have hw := w.isLt
  rw [frameWord_toNat]
  simp only [BitVec.toNat_add, BitVec.toNat_ofNat]
  omega

/-- Settles O11: the word built is a frame's, so its indexes' entries are the parser's values. -/
theorem syntheticHeaderParsesToItsTableValues : Obligations.SyntheticHeaderParsesToItsTableValues := by
  intro i j q p w h1 h14 h2
  obtain ⟨kbps, hz, hk, hs⟩ := (tables_iff _ _).2 (validIndexes_ofNat h1 h14 h2)
  refine ⟨kbps, hz, (bitrateKbps_ofNat h1 h14).trans hk, (sampleRateHz_ofNat h2).trans hs, ?_⟩
  rw [fieldSum_eq_frameWord q p w (by omega) (by omega)]
  exact parse_frameWord ⟨q, _, _, p, w⟩ kbps hz hk hs

end Sys2Proof.Machine
end

section
/-! The frame length (R130 to R136): the floored quotient and the two instructions that take it, its bounds, and its
value at each sample rate of the table. -/

namespace Sys2Proof.Machine

/-! ### The quotient -/

theorem frameLength_eq (kbps hz padding : Nat) : frameLength kbps hz padding = 144000 * kbps / hz + padding := rfl

/-- The padding is outside the quotient. -/
theorem frameLength_padded (kbps hz : Nat) : frameLength kbps hz 1 = frameLength kbps hz 0 + 1 := rfl

/-- `hz` goes at least three times into 144000 = 3 · 48000. -/
theorem three_le_frameLength {kbps hz : Nat} (padding : Nat) (hk : 1 ≤ kbps) (h1 : 1 ≤ hz) (h48 : hz ≤ 48000) :
    3 ≤ frameLength kbps hz padding := by
  have hquot : 3 ≤ 144000 * kbps / hz := (Nat.le_div_iff_mul_le h1).2 (by omega)
  rw [frameLength_eq]
  omega

/-- Settles O13: a valid word's length lies in the range its table entries give. -/
theorem validFrameLengthIsBounded : Obligations.ValidFrameLengthIsBounded :=
  ⟨fun _ _ padding => three_le_frameLength padding, headerLength_range⟩

/-! ### FLEN and FITS as instructions -/

/-- A sample rate other than 0 gives the exact length, never the free value. -/
theorem flenValue_of_ne_zero {hz : BitVec 16} (h : hz ≠ 0#16) (kbps : BitVec 9) (padding : BitVec 1) (draw : Nat) :
    flenValue kbps hz padding draw = 144000 * kbps.toNat / hz.toNat + padding.toNat := by
  rw [flenValue, if_neg h, frameLength_eq]

/-- A length below 2048 fits the 11 bits of the register (R20). -/
theorem flenRegister_toNat {len : Nat} (h : len < 2048) (draw : Nat) : (flenRegister len draw).toNat = len := by
  rw [flenRegister, if_pos h, BitVec.toNat_ofNat, Nat.mod_eq_of_lt h]

theorem exec_flen (kbps : BitVec 9) (hz : BitVec 16) (padding : BitVec 1) (s : State) :
    exec (.flen kbps hz padding) s =
      .next { s with
              flen := flenRegister (flenValue kbps hz padding s.draw) s.draw
              fout := .length (flenValue kbps hz padding s.draw)
              draw := s.draw + 1 } := rfl

/-- Settles O12: the register is read back from the exact length; at rate 0 both written values are the free ones. -/
theorem frameLengthIsTheFlooredQuotient : Obligations.FrameLengthIsTheFlooredQuotient := by
  refine ⟨fun kbps hz pad s hne => ?_, fun kbps pad s => ⟨_, _, exec_flen kbps 0#16 pad s⟩, by decide, by decide⟩
  rw [exec_flen, flenValue_of_ne_zero hne]
  exact ⟨_, rfl, fun hlt => flenRegister_toNat hlt s.draw⟩

theorem exec_fits (len rem : Nat) (s : State) :
    exec (.fits len rem) s = .next { s with fout := .verdict (fits len rem) } := rfl

/-- Settles O16: the verdict is the conjunction of the two tests. -/
theorem fitsAcceptsUpToTheLastByte : Obligations.FitsAcceptsUpToTheLastByte := by
  intro len rem s
  rw [exec_fits, fits, Bool.decide_and]

/-! ### The sample rates of the table -/

/-- 144000 is 3 · 48000. -/
theorem frameLength_48000 (k : Nat) : frameLength k 48000 0 = 3 * k := by
  rw [frameLength_eq]
  omega

/-- 16000 is common to 144000 and 32000. -/
theorem frameLength_32000 (k : Nat) : frameLength k 32000 0 = 9 * k / 2 := by
  rw [frameLength_eq]
  omega

/-- 900 is common to 144000 and 44100. -/
theorem frameLength_44100 (k : Nat) : frameLength k 44100 0 = 160 * k / 49 := by
  rw [frameLength_eq]
  omega

/-- Settles O14: one cancelled fraction for each sample rate. -/
theorem frameLengthWithoutDivider : Obligations.FrameLengthWithoutDivider :=
  fun k => ⟨frameLength_48000 k, frameLength_32000 k, frameLength_44100 k⟩

/-- Settles O15: the forms without a divider evaluate to the 42 lengths. -/
theorem frameLengthTable : Obligations.FrameLengthTable := by
  refine ⟨rfl, rfl, ?_, frameLength_padded⟩
  simp only [frameLength_44100, frameLength_48000, frameLength_32000]
  decide

end Sys2Proof.Machine
end

section
/-! The tag skipper (`43_tagskip.md`): the synchsafe size of a tag and TAGSKIP as an instruction. -/

namespace Sys2Proof.Machine

/-! ### The tag size -/

/-- The low seven bits of a byte, as a field and as a mask (R143). -/
theorem low7_toNat (b : Byte) : (low7 b).toNat = (b &&& 0x7F#8).toNat := by
  rw [low7, BitVec.toNat_setWidth, BitVec.toNat_and]
  exact (Nat.and_two_pow_sub_one_eq_mod b.toNat 7).symm

/-- Four fields of seven bits side by side are 28 bits. -/
theorem synchsafe_lt (b6 b7 b8 b9 : Byte) : synchsafe b6 b7 b8 b9 < 2 ^ 28 :=
  (low7 b6 ++ low7 b7 ++ low7 b8 ++ low7 b9).isLt

/-- A field is shifted by the widths of the fields behind it. -/
theorem synchsafe_eq_shifts (b6 b7 b8 b9 : Byte) :
    synchsafe b6 b7 b8 b9 =
      ((low7 b6).toNat <<< 21 ||| (low7 b7).toNat <<< 14 ||| (low7 b8).toNat <<< 7 ||| (low7 b9).toNat) := by
  simp only [synchsafe, BitVec.toNat_append, Nat.shiftLeft_or_distrib, ← Nat.shiftLeft_add]

/-- Settles O17: the size by its shifted fields, each field by its mask. -/
theorem tagSizeIsSynchsafe : Obligations.TagSizeIsSynchsafe := by
  intro b6 b7 b8 b9
  refine ⟨?_, Nat.le_of_lt_succ (synchsafe_lt b6 b7 b8 b9)⟩
  simp only [synchsafe_eq_shifts, low7_toNat]

/-! ### TAGSKIP as an instruction -/

/-- TAGSKIP as an instruction is the function, with its result in `fout` (log entry 15). -/
theorem exec_tagskip (pos : Nat) (s : State) :
    exec (.tagskip pos) s = (tagSkip pos s).finish fun p s1 => { s1 with fout := .position p } := rfl

/-- Settles O19: the guard of the read, then the read served and failed. -/
theorem tagskipGivesThePositionAfterATag : Obligations.TagskipGivesThePositionAfterATag := by
  intro pos s
  refine ⟨fun hnear => ?_, fun t hfar hs => ?_, fun hfar hf => ?_⟩
  · rw [exec_tagskip, tagSkip_near pos s hnear, finish_ok]
  · rw [exec_tagskip, tagSkip_served pos t s hfar hs, finish_ok]
    rfl
  · rw [exec_tagskip, tagSkip_fails pos s hfar hf, finish_ioFail]
    rfl

end Sys2Proof.Machine
end

section
/-! A step over another source that agrees on the bytes the step reads (`43_tagskip.md` R145, `45_walker.md` R168): each
read answers alike, so each part of the step does, and only the source in the state differs. -/

namespace Sys2Proof.Machine

open Host

/-- The result of a part of a step, with another source behind the port. -/
def Res.withSource {α : Type} (m : Memory) : Res α → Res α
  | .ok a s => .ok a (s.withSource m)
  | .ioFail s => .ioFail (s.withSource m)
  | .silent => .silent
  | .outside => .outside

/-- The other source agrees with the state's on `len` bytes from `off` on. -/
def AgreesAt (m : Memory) (s : State) (off len : Nat) : Prop := ∀ k, k < len → m.read (off + k) = s.mem.read (off + k)

/-- The other source agrees with the state's on every byte the next step of the sequencer's own reads, each under the
guard of its read (R53, R141, R151 to R154, R164). -/
structure AgreesOnReads (m : Memory) (s : State) : Prop where
  tag : s.phase = .tag → 10 ≤ s.size - s.pos → AgreesAt m s s.pos 10
  walk : s.phase = .walk → 4 ≤ s.size - s.pos → AgreesAt m s s.pos 4
  header : s.phase = .metadata → 44 ≤ s.size - s.pos → AgreesAt m s s.pos 4
  marker : s.phase = .metadata → 44 ≤ s.size - s.pos → ∀ b f, ReadServed s s.pos 4 b → parse (wordOf b) = .valid f →
    headerLength f ≤ s.size - s.pos → AgreesAt m s (s.pos + 36) 4

@[simp] theorem withSource_phase (s : State) (m : Memory) : (s.withSource m).phase = s.phase := rfl
@[simp] theorem withSource_size (s : State) (m : Memory) : (s.withSource m).size = s.size := rfl
@[simp] theorem withSource_pos (s : State) (m : Memory) : (s.withSource m).pos = s.pos := rfl

section
variable (m : Memory)

/-! ### Sequencing -/

/-- What follows a part of a step needs to agree only on what that part gives. -/
theorem res_andThen_withSource {α β : Type} (r : Res α) (k : α → State → Res β)
    (hk : ∀ a t, r = .ok a t → k a (t.withSource m) = (k a t).withSource m) :
    (r.withSource m).andThen k = (r.andThen k).withSource m := by
  cases r with
  | ok a t => exact hk a t rfl
  | ioFail t => rfl
  | silent => rfl
  | outside => rfl

theorem finish_withSource {α : Type} (r : Res α) (k : α → State → State)
    (hk : ∀ a t, k a (t.withSource m) = (k a t).withSource m) :
    (r.withSource m).finish k = outcomeWithSource m (r.finish k) := by
  cases r with
  | ok a t => exact congrArg Outcome.next (hk a t)
  | ioFail t => rfl
  | silent => rfl
  | outside => rfl

theorem endStep_withSource (o : Outcome State Fault Refusal) :
    endStep (outcomeWithSource m o) = outcomeWithSource m (endStep o) := by
  cases o <;> rfl

theorem writeHeader_withSource (s : State) (h : Word) (r : ParseResult) :
    (s.withSource m).writeHeader h r = (s.writeHeader h r).withSource m := by
  cases r <;> rfl

/-! ### Reads and skips -/

theorem memRead_withSource (off len : Nat) (s : State) (h : AgreesAt m s off len) :
    memRead off len (s.withSource m) = (memRead off len s).withSource m := by
  rw [memRead_congr off len s m h]
  cases memRead off len s <;> rfl

theorem memRead32_withSource (off : Nat) (s : State) (h : AgreesAt m s off 4) :
    memRead32 off (s.withSource m) = (memRead32 off s).withSource m := by
  rw [memRead32_congr off s m h]
  cases memRead32 off s <;> rfl

theorem tagSkip_withSource (pos : Nat) (s : State) (h : 10 ≤ s.size - pos → AgreesAt m s pos 10) :
    tagSkip pos (s.withSource m) = (tagSkip pos s).withSource m := by
  by_cases hn : s.size - pos < 10
  · rw [tagSkip_near pos s hn, tagSkip_near pos (s.withSource m) hn]
    rfl
  · have hfar : 10 ≤ s.size - pos := Nat.not_lt.1 hn
    rw [tagSkip_far pos s hfar, tagSkip_far pos (s.withSource m) hfar, memRead_withSource m pos 10 s (h hfar)]
    refine res_andThen_withSource m _ _ fun bs t _ => ?_
    dsimp only [withSource_size]
    split
    · split <;> rfl
    · rfl

/-- The marker matters only behind a valid header whose frame fits (R152 to R154). -/
theorem metaSkipRest_withSource (pos : Nat) (h : Word) (s : State)
    (hm : ∀ f, parse h = .valid f → headerLength f ≤ s.size - pos → AgreesAt m s (pos + 36) 4) :
    metaSkipRest pos h (s.withSource m) = (metaSkipRest pos h s).withSource m := by
  cases hv : parse h with
  | invalid c =>
    rw [metaSkipRest_invalid pos h c s hv, metaSkipRest_invalid pos h c (s.withSource m) hv]
    rfl
  | valid f =>
    by_cases hfit : headerLength f ≤ s.size - pos
    · have hlong : 0 < headerLength f := by have := (headerLength_range h f hv).1; omega
      rw [metaSkipRest_fits pos h f s hv hlong hfit, metaSkipRest_fits pos h f (s.withSource m) hv hlong hfit,
        writeHeader_withSource, memRead32_withSource m (pos + 36) (s.writeHeader h (.valid f)) (hm f hv hfit)]
      exact res_andThen_withSource m _ _ fun _ _ _ => rfl
    · have hshort : s.size - pos < headerLength f := Nat.not_le.1 hfit
      rw [metaSkipRest_short pos h f s hv hshort, metaSkipRest_short pos h f (s.withSource m) hv hshort]
      rfl

/-- A word that MemRead gives is the word of a served read. -/
theorem readServed_of_memRead32_ok {off : Nat} {s t : State} {w : Word} (h : memRead32 off s = .ok w t) :
    ∃ b, ReadServed s off 4 b ∧ wordOf b = w := by
  have hin : off + 4 ≤ s.size := by
    rcases memRead32_cases off s with ⟨e, -⟩ | ⟨-, -, hin⟩ | ⟨-, hin⟩ | ⟨-, -, hin⟩
    · rw [e] at h
      cases h
    all_goals exact hin
  rcases read_trichotomy s off 4 with ⟨b, hs⟩ | hf | hs
  · rw [memRead32_served off b s hin hs] at h
    cases h
    exact ⟨b, hs, rfl⟩
  · rw [memRead32_fails off s hin hf] at h
    cases h
  · rw [memRead32_silent off s hin hs] at h
    cases h

theorem metaSkip_withSource (pos : Nat) (s : State) (hh : 44 ≤ s.size - pos → AgreesAt m s pos 4)
    (hm : 44 ≤ s.size - pos → ∀ b f, ReadServed s pos 4 b → parse (wordOf b) = .valid f →
      headerLength f ≤ s.size - pos → AgreesAt m s (pos + 36) 4) :
    metaSkip pos (s.withSource m) = (metaSkip pos s).withSource m := by
  by_cases hn : s.size - pos < 44
  · rw [metaSkip_near pos s hn, metaSkip_near pos (s.withSource m) hn]
    rfl
  · have hfar : 44 ≤ s.size - pos := Nat.not_lt.1 hn
    rw [metaSkip_far pos s hfar, metaSkip_far pos (s.withSource m) hfar, memRead32_withSource m pos s (hh hfar)]
    refine res_andThen_withSource m _ _ fun w t hr => metaSkipRest_withSource m pos w t ?_
    obtain ⟨b, hs, rfl⟩ := readServed_of_memRead32_ok hr
    obtain rfl := memRead32_ok_state hr
    exact fun f => hm hfar b f hs

theorem walkVerdict_withSource (r : ParseResult) (h : Word) (s : State) :
    walkVerdict r h (s.withSource m) = (walkVerdict r h s).withSource m := by
  cases r with
  | invalid c => rfl
  | valid f =>
    unfold walkVerdict
    rw [apply_ite (State.withSource · m)]
    rfl

end

/-! ### Steps -/

theorem execWalkStep_near (s : State) (hp : s.phase = .walk) (hnear : s.rem < 4) :
    execWalkStep s = .next (raiseStop .endOfSource s) := by
  rw [execWalkStep, hp]
  exact if_pos hnear

theorem execWalkStep_far (s : State) (hp : s.phase = .walk) (hfar : 4 ≤ s.rem) :
    execWalkStep s = (memRead32 s.pos s).finish fun h s1 => walkVerdict (parse h) h s1 := by
  rw [execWalkStep, hp]
  exact if_neg (Nat.not_lt.2 hfar)

section
variable {m : Memory} {s : State} (ha : AgreesOnReads m s)
include ha

theorem execTagStep_withSource (hp : s.phase = .tag) :
    execTagStep (s.withSource m) = outcomeWithSource m (execTagStep s) := by
  rw [execTagStep, execTagStep, withSource_phase, hp]
  dsimp only [withSource_pos]
  rw [tagSkip_withSource m s.pos s (ha.tag hp)]
  exact finish_withSource m _ _ fun _ _ => rfl

theorem execMetaStep_withSource (hp : s.phase = .metadata) :
    execMetaStep (s.withSource m) = outcomeWithSource m (execMetaStep s) := by
  rw [execMetaStep, execMetaStep, withSource_phase, hp]
  dsimp only [withSource_pos]
  rw [metaSkip_withSource m s.pos s (ha.header hp) (ha.marker hp)]
  exact finish_withSource m _ _ fun _ _ => rfl

theorem execWalkStep_withSource (hp : s.phase = .walk) :
    execWalkStep (s.withSource m) = outcomeWithSource m (execWalkStep s) := by
  by_cases hnear : s.rem < 4
  · rw [execWalkStep_near s hp hnear, execWalkStep_near (s.withSource m) hp hnear]
    rfl
  · have hfar : 4 ≤ s.rem := Nat.not_lt.1 hnear
    rw [execWalkStep_far s hp hfar, execWalkStep_far (s.withSource m) hp hfar, withSource_pos,
      memRead32_withSource m s.pos s (ha.walk hp hfar)]
    exact finish_withSource m _ _ fun w t => walkVerdict_withSource m (parse w) w t

/-- A step of the sequencer's own does the same over a source that agrees on the bytes it reads. -/
theorem internalStep_withSource : internalStep (s.withSource m) = outcomeWithSource m (internalStep s) := by
  cases hb : s.busy with
  | false =>
    rw [internalStep_quiescent s hb, internalStep_quiescent (s.withSource m) hb]
    rfl
  | true =>
    rcases (busy_iff s).1 hb with hp | hp | hp
    · rw [internalStep_tag s hp, internalStep_tag (s.withSource m) hp, execTagStep_withSource ha hp, endStep_withSource]
    · rw [internalStep_metadata s hp, internalStep_metadata (s.withSource m) hp, execMetaStep_withSource ha hp,
        endStep_withSource]
    · rw [internalStep_walk s hp, internalStep_walk (s.withSource m) hp, execWalkStep_withSource ha hp,
        endStep_withSource]

end

/-- Settles O50: the step is the sequencer's own, whose every read answers alike over the other source. -/
theorem stepsDoNotSeeUnreadBytes : Obligations.StepsDoNotSeeUnreadBytes := by
  intro s m hc htag hwalk hheader hmarker
  rcases hc with hc | ⟨rest, hc⟩
  · rw [step_no_input s hc, step_no_input (s.withSource m) hc]
    exact internalStep_withSource ⟨htag, hwalk, hheader, hmarker⟩
  · rw [step_quiet s rest hc, step_quiet (s.withSource m) rest hc]
    exact internalStep_withSource (s := s.withHost rest) ⟨htag, hwalk, hheader, hmarker⟩

end Sys2Proof.Machine
end

section
/-! The metadata-frame skipper (`44_metaskip.md`): METASKIP as an instruction, and the elements that are a header word
in the phase META, with a marker and without. -/

namespace Sys2Proof.Machine

/-! ### METASKIP on a served header (R152 to R155) -/

/-- The guard of R151 covers the marker's read as well. -/
theorem marker_inside {pos : Nat} {s : State} (hfar : 44 ≤ s.size - pos) (h : Word) (r : ParseResult) :
    pos + 36 + 4 ≤ ((s.afterRead pos 4).writeHeader h r).size := by
  rw [writeHeader_size, afterRead_size]
  omega

section
variable {pos : Nat} {s : State} {b : Nat → Byte} (hfar : 44 ≤ s.size - pos) (hs : ReadServed s pos 4 b)
include hfar hs

theorem metaSkip_served_invalid {c : Cause} (hv : parse (wordOf b) = .invalid c) :
    metaSkip pos s = .ok pos ((s.afterRead pos 4).writeHeader (wordOf b) (.invalid c)) := by
  rw [metaSkip_served pos b s hfar hs, metaSkipRest_invalid _ _ _ _ hv]

theorem metaSkip_served_short {f : FrameHeader} (hv : parse (wordOf b) = .valid f)
    (hshort : s.size - pos < headerLength f) :
    metaSkip pos s = .ok pos ((s.afterRead pos 4).writeHeader (wordOf b) (.valid f)) := by
  rw [metaSkip_served pos b s hfar hs, metaSkipRest_short pos _ f (s.afterRead pos 4) hv hshort]

theorem metaSkip_served_fits {f : FrameHeader} (hv : parse (wordOf b) = .valid f)
    (hfits : headerLength f ≤ s.size - pos) :
    metaSkip pos s =
      (memRead32 (pos + 36) ((s.afterRead pos 4).writeHeader (wordOf b) (.valid f))).andThen fun m s1 =>
        .ok (if isMarker m then pos + headerLength f else pos) s1 := by
  obtain ⟨hlong, -⟩ := headerLength_range _ _ hv
  rw [metaSkip_served pos b s hfar hs, metaSkipRest_fits pos _ f (s.afterRead pos 4) hv (by omega) hfits]

/-- The registers of the header are written before the marker is read, so they stay when that read fails. -/
theorem metaSkip_marker_fails {f : FrameHeader} (hv : parse (wordOf b) = .valid f)
    (hfits : headerLength f ≤ s.size - pos) (hm : ReadFails { s with port := s.port.tail } (pos + 36) 4) :
    metaSkip pos s =
      .ioFail (((s.afterRead pos 4).writeHeader (wordOf b) (.valid f)).afterRead (pos + 36) 4) := by
  rw [metaSkip_served_fits hfar hs hv hfits, memRead32_fails _ _ (marker_inside hfar (wordOf b) (.valid f)) hm,
    ioFail_andThen]

theorem metaSkip_marker_served {f : FrameHeader} {m : Nat → Byte} (hv : parse (wordOf b) = .valid f)
    (hfits : headerLength f ≤ s.size - pos) (hm : ReadServed { s with port := s.port.tail } (pos + 36) 4 m) :
    metaSkip pos s =
      .ok (if wordOf m = 0x58696E67#32 ∨ wordOf m = 0x496E666F#32 then pos + headerLength f else pos)
        (((s.afterRead pos 4).writeHeader (wordOf b) (.valid f)).afterRead (pos + 36) 4) := by
  rw [metaSkip_served_fits hfar hs hv hfits, memRead32_served _ m _ (marker_inside hfar (wordOf b) (.valid f)) hm,
    ok_andThen]
  simp only [isMarker_iff]

end

/-! ### METASKIP as an instruction -/

/-- METASKIP as an instruction is the function, with its result in `fout` (log entry 15). -/
theorem exec_metaskip (pos : Nat) (s : State) :
    exec (.metaskip pos) s = (metaSkip pos s).finish fun p s1 => { s1 with fout := .position p } := rfl

/-- Settles O22: the guard, the header's read failed and served, then the verdict, the length and the marker's read. -/
theorem metaskipGivesThePositionAfterAStatisticsFrame : Obligations.MetaskipGivesThePositionAfterAStatisticsFrame := by
  intro pos s
  rw [exec_metaskip]
  refine ⟨fun hnear => ?_, fun hfar hf => ?_, fun b hfar hs =>
    ⟨fun c hv => ?_, fun f hv hshort => ?_, fun f hv hfits hm => ?_, fun f m hv hfits hm => ?_⟩⟩
  · rw [metaSkip_near pos s hnear, finish_ok]
  · rw [metaSkip_fails pos s hfar hf, finish_ioFail]
    rfl
  · rw [metaSkip_served_invalid hfar hs hv, finish_ok]
    rfl
  · rw [metaSkip_served_short hfar hs hv hshort, finish_ok]
    rfl
  · rw [metaSkip_marker_fails hfar hs hv hfits hm, finish_ioFail]
    rfl
  · rw [metaSkip_marker_served hfar hs hv hfits hm, finish_ok]
    rfl

/-! ### A frame's header word in the phase META, spelt out register by register -/

section
variable {s : State} {h : Word} (f : FrameHeader) (hfar : 44 ≤ s.size - s.pos)
include hfar

theorem metaOnHeader_left_short (marked : Bool) (hshort : s.size - s.pos < headerLength f) :
    metaOnHeader (.valid f) h marked s =
      { afterValidHeader s h f with reads := ⟨s.pos, 4⟩ :: s.reads, port := s.port.tail, phase := .walk } := by
  rw [metaOnHeader_short f h marked s hfar hshort]
  rfl

theorem metaOnHeader_left_unmarked (h0 : 0 < headerLength f) (hfits : headerLength f ≤ s.size - s.pos) :
    metaOnHeader (.valid f) h false s =
      { afterValidHeader s h f with
        reads := ⟨s.pos + 36, 4⟩ :: ⟨s.pos, 4⟩ :: s.reads, port := s.port.tail.tail, phase := .walk } := by
  rw [metaOnHeader_fits f h false s hfar h0 hfits]
  rfl

theorem metaOnHeader_skipped (h0 : 0 < headerLength f) (hfits : headerLength f ≤ s.size - s.pos) :
    metaOnHeader (.valid f) h true s =
      { afterValidHeader s h f with
        reads := ⟨s.pos + 36, 4⟩ :: ⟨s.pos, 4⟩ :: s.reads, port := s.port.tail.tail, pos := s.pos + headerLength f,
        phase := .walk } := by
  rw [metaOnHeader_fits f h true s hfar h0 hfits]
  rfl

end

/-! ### The two rows with a marker -/

theorem markedElement_meta (h : Word) (s : State) (hp : s.phase = .metadata) :
    markedElement h s = .next (metaOnHeader (parse h) h true s) := by
  rw [markedElement, hp]

/-- Outside META the marker makes no difference (R156). -/
theorem markedElement_of_ne_meta (h : Word) (s : State) (hp : s.phase ≠ .metadata) :
    markedElement h s = headerElement (parse h) h s := by
  rw [markedElement, headerElement]
  cases hq : s.phase with
  | metadata => exact absurd hq hp
  | _ => rfl

section
variable {i : Instr} {q : BitVec 1} {bri : BitVec 4} {sri : BitVec 2} {p : BitVec 1} {w : BitVec 9}
  (hi : i = .metaVbr q bri sri p w ∨ i = .metaCbr q bri sri p w)
include hi

theorem exec_of_metaRow (s : State) : exec i s = markedElement (frameWord ⟨q, bri, sri, p, w⟩) s := by
  rcases hi with rfl | rfl <;> rfl

theorem validIndexes_of_metaRow (hwf : i.wf = true) : validIndexes bri sri = true := by
  rcases hi with rfl | rfl <;> exact hwf

end

/-- Settles O24: both rows run their word with a marker, whose verdict in every phase is the parser's. -/
theorem statisticsFramesAreSkippedOnce : Obligations.StatisticsFramesAreSkippedOnce := by
  intro i q bri sri p w s hi hwf
  obtain ⟨kbps, hz, hk, hs⟩ := (tables_iff _ _).2 (validIndexes_of_metaRow hi hwf)
  have hv : parse (frameWord ⟨q, bri, sri, p, w⟩) = .valid ⟨kbps, hz, p⟩ := parse_frameWord _ kbps hz hk hs
  obtain ⟨hlong, -⟩ := headerLength_range _ _ hv
  have inMeta : s.phase = .metadata → exec i s =
      .next (metaOnHeader (.valid ⟨kbps, hz, p⟩) (frameWord ⟨q, bri, sri, p, w⟩) true s) := fun hp => by
    rw [exec_of_metaRow hi, markedElement_meta _ _ hp, hv]
  have inWalk : s.phase = .walk → exec i s =
      .next (walkOnHeader (.valid ⟨kbps, hz, p⟩) (frameWord ⟨q, bri, sri, p, w⟩) s) := fun hp => by
    rw [exec_of_metaRow hi, markedElement_of_ne_meta _ _ (by simp [hp]), hv, headerElement_walk _ _ _ hp]
  refine ⟨kbps, hz, headerLength ⟨kbps, hz, p⟩, hk, hs, rfl, fun hp hfar hfits => ?_, fun hp hfar hshort => ?_,
    fun hp hnear => ?_, fun hp hfits => ?_, fun hp hfar hshort => ?_, fun hp hnear => ?_, fun hm hw => ?_⟩
  · rw [inMeta hp, metaOnHeader_skipped _ hfar (by omega) hfits]
  · rw [inMeta hp, metaOnHeader_left_short _ hfar _ hshort]
  · rw [inMeta hp, metaOnHeader_near _ _ _ _ hnear]
  · rw [inWalk hp, walkOnHeader_fits _ (by omega) (by omega) hfits]
  · rw [inWalk hp, walkOnHeader_truncated _ hfar hshort]
  · rw [inWalk hp, walkOnHeader_near _ _ _ hnear]
  · rw [exec_of_metaRow hi, markedElement_of_ne_meta _ _ hm, headerElement_other _ _ _ hw hm]

/-! ### The frame rows -/

/-- Settles O28: a frame row runs its word without a marker, so its position is kept whether it fits or not. -/
theorem audioFramesAreLeftByTheMetadataSkip : Obligations.AudioFramesAreLeftByTheMetadataSkip := by
  intro i f s hf
  obtain ⟨kbps, hz, hk, hs⟩ := (tables_iff _ _).2 (validIndexes_of_frameBits hf)
  have hv := parse_frameWord f kbps hz hk hs
  obtain ⟨hlong, -⟩ := headerLength_range _ _ hv
  rw [exec_of_frameBits i f s hf, hv]
  refine ⟨fun hp => ⟨kbps, hz, headerLength ⟨kbps, hz, f.p⟩, hk, hs, rfl, ?_⟩,
    fun hm hw => headerElement_other _ _ _ hw hm⟩
  rw [headerElement_meta _ _ _ hp]
  refine ⟨fun hfar hfits => ?_, fun hfar hshort => ?_, fun hnear => ?_⟩
  · rw [metaOnHeader_left_unmarked _ hfar (by omega) hfits]
  · rw [metaOnHeader_left_short _ hfar _ hshort]
  · rw [metaOnHeader_near _ _ _ _ hnear]

end Sys2Proof.Machine
end

section
/-! The three internal steps in their phase and outside it (`45_walker.md` R161 to R169), register by register, and the
host's commands at a step boundary (R160, R175, R176). -/

namespace Sys2Proof.Machine

open Host

/-! ### An internal step in its phase -/

theorem execTagStep_tag (s : State) (hp : s.phase = .tag) :
    execTagStep s = (tagSkip s.pos s).finish fun p s1 => { s1 with pos := p, phase := .metadata } := by
  rw [execTagStep, hp]

theorem execMetaStep_metadata (s : State) (hp : s.phase = .metadata) :
    execMetaStep s = (metaSkip s.pos s).finish enterWalk := by
  rw [execMetaStep, hp]

/-- Settles O20: the guard of the read, then the read served and failed. -/
theorem tagStepSkipsALeadingTag : Obligations.TagStepSkipsALeadingTag := by
  intro s hp
  rw [show exec .tagStep s = _ from execTagStep_tag s hp]
  refine ⟨fun hnear => ?_, fun t hfar hs => ?_, fun hfar hf => ?_⟩
  · rw [tagSkip_near s.pos s hnear, finish_ok]
  · rw [tagSkip_served s.pos t s hfar hs, finish_ok]
    rfl
  · rw [tagSkip_fails s.pos s hfar hf, finish_ioFail]
    rfl

/-- Settles O23: the guard, the header's read failed and served, then the verdict, the length and the marker's read. -/
theorem metaStepSkipsAtMostOneStatisticsFrame : Obligations.MetaStepSkipsAtMostOneStatisticsFrame := by
  intro s hp
  rw [show exec .metaStep s = _ from execMetaStep_metadata s hp]
  refine ⟨fun hnear => ?_, fun hfar hf => ?_, fun b hfar hs =>
    ⟨fun c hv => ?_, fun f hv hshort => ?_, fun f hv hfits hm => ?_, fun f m hv hfits hm => ?_⟩⟩
  · rw [metaSkip_near s.pos s hnear, finish_ok]
    rfl
  · rw [metaSkip_fails s.pos s hfar hf, finish_ioFail]
    rfl
  · rw [metaSkip_served_invalid hfar hs hv, finish_ok]
    rfl
  · rw [metaSkip_served_short hfar hs hv hshort, finish_ok]
    rfl
  · rw [metaSkip_marker_fails hfar hs hv hfits hm, finish_ioFail]
    rfl
  · rw [metaSkip_marker_served hfar hs hv hfits hm, finish_ok]
    rfl

/-- Settles O25: the loop condition, the read failed and served, then the verdict and the length. -/
theorem walkStepStopsOrCounts : Obligations.WalkStepStopsOrCounts := by
  intro s hp
  refine ⟨execWalkStep_near s hp, fun hfar hf => ?_, fun b hfar hs =>
    ⟨fun c hv => ?_, fun f hv hshort => ?_, fun f hv hfits => ?_⟩⟩
  all_goals rw [show exec .walkStep s = _ from execWalkStep_far s hp hfar]
  · rw [memRead32_fails s.pos s (by omega) hf, finish_ioFail]
    rfl
  all_goals rw [memRead32_served s.pos b s (by omega) hs, finish_ok, hv]
  · rfl
  · rw [walkVerdict_short f (wordOf b) (s.afterRead s.pos 4) hshort]
    rfl
  · obtain ⟨hlong, -⟩ := headerLength_range _ _ hv
    rw [walkVerdict_fits f (wordOf b) (s.afterRead s.pos 4) (by omega) hfits]
    rfl

/-! ### An internal step outside its phase -/

theorem execTagStep_other (s : State) (hp : s.phase ≠ .tag) : execTagStep s = .next s := by
  rw [execTagStep]
  cases hq : s.phase with
  | tag => exact absurd hq hp
  | _ => rfl

theorem execMetaStep_other (s : State) (hp : s.phase ≠ .metadata) : execMetaStep s = .next s := by
  rw [execMetaStep]
  cases hq : s.phase with
  | metadata => exact absurd hq hp
  | _ => rfl

theorem execWalkStep_other (s : State) (hp : s.phase ≠ .walk) : execWalkStep s = .next s := by
  rw [execWalkStep]
  cases hq : s.phase with
  | walk => exact absurd hq hp
  | _ => rfl

/-- Settles O26: each internal step outside its own phase. -/
theorem internalStepsWaitForTheirPhase : Obligations.InternalStepsWaitForTheirPhase := fun s =>
  ⟨execTagStep_other s, execMetaStep_other s, execWalkStep_other s⟩

/-! ### The order of the phases -/

section
variable {s t : State} (h : Move s t)
include h

theorem Move.of_tag (hp : s.phase = .tag) : t.phase = .metadata ∨ t.phase = .fault := by
  cases h with
  | skip next => exact .inl (by simpa [hp] using next)
  | count start | stop start | invalid start => rw [hp] at start; cases start
  | fail start next => exact .inr next

theorem Move.of_metadata (hp : s.phase = .metadata) : t.phase = .walk ∨ t.phase = .fault := by
  cases h with
  | skip next => exact .inl (by simpa [hp] using next)
  | count start | stop start | invalid start => rw [hp] at start; cases start
  | fail start next => exact .inr next

theorem Move.of_walk (hp : s.phase = .walk) : t.phase = .walk ∨ t.phase = .done ∨ t.phase = .fault := by
  cases h with
  | skip next => simp [hp] at next
  | count start next => exact .inl next
  | stop start next | invalid start next => exact .inr (.inl next)
  | fail start next => exact .inr (.inr next)

end

/-- Settles O43: the moves of a step of a pass, phase by phase; without a pass nothing moves. -/
theorem phasesComeInOrder : Obligations.PhasesComeInOrder := by
  intro s t hc h
  obtain ⟨u, l, hu, rfl⟩ := step_next_of_noCommand hc h
  rcases internalStep_next hu with ⟨hq, rfl⟩ | ⟨hb, hstep⟩
  · have hne : ∀ p, p = .tag ∨ p = .metadata ∨ p = .walk → u.phase ≠ p := by
      rintro _ hp rfl
      simp [(busy_iff u).2 hp] at hq
    exact ⟨fun hp => absurd hp (hne _ (.inl rfl)), fun hp => absurd hp (hne _ (.inr (.inl rfl))),
      fun hp => absurd hp (hne _ (.inr (.inr rfl))), fun _ => rfl⟩
  · exact ⟨hstep.move.of_tag, hstep.move.of_metadata, hstep.move.of_walk, fun hq => by simp [hb] at hq⟩

/-! ### Commands -/

theorem busy_eq_false_iff (s : State) : s.busy = false ↔ s.phase = .idle ∨ s.phase = .done ∨ s.phase = .fault := by
  rw [State.busy]
  cases s.phase <;> decide

theorem execStart_busy (n : Nat) (s : State) (hb : s.busy = true) : execStart n s = .next s := if_pos hb

theorem execAbort_busy (s : State) (hb : s.busy = true) : execAbort s = .next { s with phase := .idle } := if_pos hb

theorem execAbort_quiescent (s : State) (hb : s.busy = false) : execAbort s = .next s := by
  rw [execAbort, hb]
  rfl

/-- The state in which a START that is accepted leaves the block (R160). -/
def State.started (n : Nat) (s : State) : State :=
  { s with
    size := n
    pos := 0
    cnt := 0
    stop := if n < 4 then .endOfSource else .none
    invCause := .none
    phase := if n < 4 then .done else .tag
    reads := [] }

theorem execStart_quiescent (n : Nat) (s : State) (hb : s.busy = false) : execStart n s = .next (s.started n) := by
  rw [execStart, hb]
  rfl

/-- A boundary at which the host asserts something is that command, with the rest of the inputs to come. -/
theorem step_command {s : State} {c : HostInput} {rest : List HostInput} (h : s.host = c :: rest) :
    step s = hostStep c (s.withHost rest) := by
  rw [step, boundary, h]
  rfl

/-- Settles O30: a START in a quiescent phase is accepted, and the size decides whether the pass ends with it. -/
theorem startBeginsAPass : Obligations.StartBeginsAPass := by
  intro n s hp
  have hs : exec (.start n) s = .next (s.started n) := execStart_quiescent n s ((busy_eq_false_iff s).2 hp)
  refine ⟨fun hn => ?_, fun hn => ?_⟩
  · rw [hs, State.started, if_neg (Nat.not_lt.2 hn), if_neg (Nat.not_lt.2 hn)]
  · rw [hs, State.started, if_pos hn, if_pos hn]

/-- Settles O31: the abort of a running pass, as an instruction and as a boundary, and the idle block after it. -/
theorem abortAbandonsThePass : Obligations.AbortAbandonsThePass :=
  ⟨fun s hp => execAbort_busy s ((busy_iff s).2 hp),
    fun s rest hc hp => (step_command hc).trans (execAbort_busy (s.withHost rest) ((busy_iff s).2 hp)),
    fun s hp hc => (step_no_input s hc).trans (internalStep_quiescent s ((busy_eq_false_iff s).2 (.inl hp)))⟩

/-- Settles O32: each command in the wrong phase, then both together in a busy block and in a quiescent one. -/
theorem commandsInTheWrongPhaseAreIgnored : Obligations.CommandsInTheWrongPhaseAreIgnored := by
  refine ⟨execStart_busy, execAbort_quiescent, fun n s rest hc => ?_⟩
  rw [step_command hc]
  show andThen (execAbort (s.withHost rest)) (execStart n) = _
  cases hb : s.busy with
  | true =>
    rw [execAbort_busy (s.withHost rest) hb]
    rfl
  | false =>
    rw [execAbort_quiescent (s.withHost rest) hb]
    rfl

/-- Settles O34: no internal step is enabled, with no input listed and at a quiet boundary. -/
theorem quiescentPhasesHoldTheirRegisters : Obligations.QuiescentPhasesHoldTheirRegisters := by
  intro s hp
  have hb := (busy_eq_false_iff s).2 hp
  exact ⟨fun hc => (step_no_input s hc).trans (internalStep_quiescent s hb),
    fun rest hc => (step_quiet s rest hc).trans (internalStep_quiescent (s.withHost rest) hb)⟩

end Sys2Proof.Machine
end

section
/-! A whole pass (`45_walker.md` R160 to R172): the steps of the phases one after another, run by the core with free
values between them and by COUNTFRAMES without. It ends where the port answers (R171, R236), and over a whole source it
counts what the function of R172 counts. -/

namespace Sys2Proof.Machine

open Host

/-! ### The step of the phase -/

/-- The internal step the phase enables; nothing in a quiescent phase (R161, R169). -/
def ownStep (s : State) : Outcome State Fault Refusal :=
  match s.phase with
  | .tag => execTagStep s
  | .metadata => execMetaStep s
  | .walk => execWalkStep s
  | .idle => .next s
  | .done => .next s
  | .fault => .next s

theorem ownStep_tag (s : State) (hp : s.phase = .tag) : ownStep s = execTagStep s := by
  rw [ownStep, hp]

theorem ownStep_metadata (s : State) (hp : s.phase = .metadata) : ownStep s = execMetaStep s := by
  rw [ownStep, hp]

theorem ownStep_walk (s : State) (hp : s.phase = .walk) : ownStep s = execWalkStep s := by
  rw [ownStep, hp]

section
variable {s t : State} (hb : s.busy = true)
include hb

/-- The sequencer's own step is the step of the phase, after which the transient registers are unspecified (R25). -/
theorem internalStep_busy : internalStep s = endStep (ownStep s) := by
  rcases (busy_iff s).1 hb with hp | hp | hp
  · rw [internalStep_tag s hp, ownStep_tag s hp]
  · rw [internalStep_metadata s hp, ownStep_metadata s hp]
  · rw [internalStep_walk s hp, ownStep_walk s hp]

theorem ownStep_passStep (h : ownStep s = .next t) : PassStep s t := by
  rcases (busy_iff s).1 hb with hp | hp | hp
  · exact execTagStep_passStep hp (ownStep_tag s hp ▸ h)
  · exact execMetaStep_passStep hp (ownStep_metadata s hp ▸ h)
  · exact execWalkStep_passStep hp (ownStep_walk s hp ▸ h)

end

/-! ### A port that answers -/

theorem res_andThen_ne_silent {α β : Type} {r : Res α} {k : α → State → Res β} (hr : r ≠ .silent)
    (hk : ∀ a t, r = .ok a t → k a t ≠ .silent) : r.andThen k ≠ .silent := by
  cases r with
  | ok a t => exact hk a t rfl
  | silent => exact absurd rfl hr
  | ioFail t => exact nofun
  | outside => exact nofun

theorem finish_ne_fault {α : Type} {r : Res α} (k : α → State → State) (q : Fault) (hr : r ≠ .silent) :
    r.finish k ≠ .fault q := by
  cases r with
  | silent => exact absurd rfl hr
  | _ => exact nofun

section
variable {s : State} (ha : PortAnswers s)
include ha

theorem memRead32_ne_silent (off : Nat) : memRead32 off s ≠ .silent := by
  rcases memRead32_cases off s with ⟨e, -⟩ | ⟨-, hs, -⟩ | ⟨e, -⟩ | ⟨w, e, -⟩
  · rw [e]; exact nofun
  · exact absurd hs (not_readSilent s ha)
  · rw [e]; exact nofun
  · rw [e]; exact nofun

theorem tagSkip_ne_silent (pos : Nat) : tagSkip pos s ≠ .silent := by
  rcases tagSkip_cases pos s with ⟨e, -⟩ | ⟨-, hs, -⟩ | ⟨e, -⟩ | ⟨p, e, -⟩
  · rw [e]; exact nofun
  · exact absurd hs (not_readSilent s ha)
  · rw [e]; exact nofun
  · rw [e]; exact nofun

theorem metaSkipRest_ne_silent (pos : Nat) (h : Word) : metaSkipRest pos h s ≠ .silent := by
  rw [metaSkipRest]
  cases parse h with
  | invalid c => exact nofun
  | valid f =>
    dsimp only
    split
    · exact res_andThen_ne_silent (memRead32_ne_silent (s := s.writeHeader h (.valid f)) ha _) fun _ _ _ => nofun
    · exact nofun

theorem metaSkip_ne_silent (pos : Nat) : metaSkip pos s ≠ .silent := by
  by_cases hnear : s.size - pos < 44
  · rw [metaSkip_near pos s hnear]
    exact nofun
  · rw [metaSkip_far pos s (Nat.not_lt.1 hnear)]
    refine res_andThen_ne_silent (memRead32_ne_silent ha pos) fun h t e => ?_
    obtain rfl := memRead32_ok_state e
    exact metaSkipRest_ne_silent (portAnswers_afterRead s pos 4 ha) pos h

theorem ownStep_ne_fault (q : Fault) : ownStep s ≠ .fault q := by
  cases hp : s.phase with
  | tag =>
    rw [ownStep_tag s hp, execTagStep_tag s hp]
    exact finish_ne_fault _ q (tagSkip_ne_silent ha s.pos)
  | metadata =>
    rw [ownStep_metadata s hp, execMetaStep_metadata s hp]
    exact finish_ne_fault _ q (metaSkip_ne_silent ha s.pos)
  | walk =>
    rw [ownStep_walk s hp]
    by_cases hnear : s.rem < 4
    · rw [execWalkStep_near s hp hnear]
      exact nofun
    · rw [execWalkStep_far s hp (Nat.not_lt.1 hnear)]
      exact finish_ne_fault _ q (memRead32_ne_silent ha s.pos)
  | _ =>
    rw [ownStep, hp]
    exact nofun

/-- Where the port answers, a step of the pass goes on: it is neither stuck nor refused (R53, R236). -/
theorem ownStep_of_answers (hb : s.busy = true) : ∃ t, ownStep s = .next t := by
  cases e : ownStep s with
  | next t => exact ⟨t, rfl⟩
  | fault q => exact absurd e (ownStep_ne_fault ha q)
  | refused r =>
    have hr := internalStep_not_refused s r
    rw [internalStep_busy hb, e] at hr
    exact absurd rfl hr

end

theorem walkVerdict_port (r : ParseResult) (h : Word) (s : State) : (walkVerdict r h s).port = s.port := by
  rcases walkVerdict_cases r h s with ⟨c, -, e⟩ | ⟨f, -, -, e⟩ | ⟨f, -, -, e⟩ <;>
    rw [e] <;> exact writeHeader_port s h r

/-- A step uses up answers of the port, and adds none. -/
theorem ownStep_port {s t : State} (h : ownStep s = .next t) : t.port ⊆ s.port := by
  have htail : s.port.tail ⊆ s.port := List.tail_subset _
  cases hp : s.phase with
  | tag =>
    rw [ownStep_tag s hp, execTagStep_tag s hp] at h
    rcases tagSkip_cases s.pos s with ⟨e, -⟩ | ⟨e, -⟩ | ⟨e, -⟩ | ⟨p, e, -⟩ <;> rw [e] at h <;> cases h
    · exact List.Subset.refl _
    · exact htail
    · exact htail
  | metadata =>
    rw [ownStep_metadata s hp, execMetaStep_metadata s hp] at h
    rcases metaSkip_cases s.pos s with ⟨e, -⟩ | ⟨-, e | e | ⟨w, c, -, -, e⟩ | ⟨w, f, -, -, -, e⟩ |
      ⟨w, f, -, -, -, e | ⟨m, e⟩⟩⟩ <;> rw [e] at h <;> cases h
    · exact List.Subset.refl _
    · exact htail
    · exact htail
    · exact htail
    · exact List.Subset.trans (List.tail_subset _) htail
    · exact List.Subset.trans (List.tail_subset _) htail
  | walk =>
    rw [ownStep_walk s hp] at h
    rcases walkStep_cases s hp with ⟨e, -⟩ | ⟨-, e | e | ⟨w, -, e⟩⟩ <;> rw [e] at h <;> cases h
    · exact List.Subset.refl _
    · exact htail
    · rw [walkVerdict_port]
      exact htail
  | _ =>
    rw [ownStep, hp] at h
    cases h
    exact List.Subset.refl _

/-! ### Passes -/

/-- The steps of a pass until it is over, `k` of them, with `g` applied after each: `State.scrub` where the core runs
them, nothing where COUNTFRAMES does (R25, log entry 19). -/
inductive Pass (g : State → State) : Nat → State → State → Prop
  | finished {s : State} (hb : s.busy = false) : Pass g 0 s s
  | step {k : Nat} {s t u : State} (hb : s.busy = true) (h : ownStep s = .next t) (rest : Pass g k (g t) u) :
      Pass g (k + 1) s u

/-- What holds from an accepted START to the end of its pass, where the port answers every read. -/
structure Underway (n : Nat) (s : State) : Prop where
  size       : s.size = n
  inside     : s.pos ≤ s.size
  notIdle    : s.phase ≠ .idle
  stopReason : stopFitsPhase s.phase s.stop = true
  answers    : PortAnswers s

/-- How many steps the rest of a pass takes at most: each WALK step but the last moves POS (R171). -/
def State.budget (s : State) : Nat :=
  match s.phase with
  | .tag => s.size - s.pos + 3
  | .metadata => s.size - s.pos + 2
  | .walk => s.size - s.pos + 1
  | .idle => 0
  | .done => 0
  | .fault => 0

theorem budget_pos {s : State} (hb : s.busy = true) : 0 < s.budget := by
  rw [State.budget]
  rcases (busy_iff s).1 hb with hp | hp | hp <;> rw [hp] <;> exact Nat.succ_pos _

theorem budget_of_ended {s : State} (h : s.phase = .done ∨ s.phase = .fault) : s.budget = 0 := by
  rw [State.budget]
  rcases h with hp | hp <;> rw [hp]

theorem stop_none_of_busy {s : State} (hb : s.busy = true) (hfits : stopFitsPhase s.phase s.stop = true) :
    s.stop = .none := by
  cases hs : s.stop with
  | none => rfl
  | _ => rcases (busy_iff s).1 hb with hp | hp | hp <;> rw [hp, hs] at hfits <;> cases hfits

section
variable {s t : State}

theorem Move.next_ne_idle (h : Move s t) : t.phase ≠ .idle := by
  cases h with
  | skip next => rcases next with ⟨-, next⟩ | ⟨-, next⟩ <;> rw [next] <;> decide
  | count start next | stop start next | invalid start next | fail start next => rw [next]; decide

theorem PassStep.budget_lt (h : PassStep s t) (hin : s.pos ≤ s.size) : t.budget < s.budget := by
  have hsize := h.kept.size
  have hmono := h.posMono
  have hin' := h.posInside hin
  have hpos := budget_pos h.move.busy
  cases h.move with
  | skip next => rcases next with ⟨hs, ht⟩ | ⟨hs, ht⟩ <;> simp only [State.budget, hs, ht] <;> omega
  | count start next cnt pos => simp only [State.budget, start, next]; omega
  | stop start next | invalid start next => rwa [budget_of_ended (.inl next)]
  | fail start next => rwa [budget_of_ended (.inr next)]

variable {n : Nat}

theorem Underway.ownStep (hu : Underway n s) (hb : s.busy = true) (h : ownStep s = .next t) : Underway n t := by
  have hstep := ownStep_passStep hb h
  have hsize := hstep.kept.size
  exact
    { size := hsize.trans hu.size
      inside := (hstep.posInside hu.inside).trans hsize.ge
      notIdle := hstep.move.next_ne_idle
      stopReason := hstep.move.stopReason (stop_none_of_busy hb hu.stopReason)
      answers := fun a hin => hu.answers a (ownStep_port h hin) }

theorem Underway.scrub (hu : Underway n s) : Underway n s.scrub :=
  ⟨hu.size, hu.inside, hu.notIdle, hu.stopReason, hu.answers⟩

theorem Underway.ended (hu : Underway n s) (hb : s.busy = false) : s.phase = .done ∨ s.phase = .fault :=
  ((busy_eq_false_iff s).1 hb).resolve_left hu.notIdle

/-- A pass that has ended on a failed read says so (R203). -/
theorem Underway.stop_of_fault (hu : Underway n s) (hp : s.phase = .fault) : s.stop = .ioError := by
  have hfits := hu.stopReason
  rw [hp] at hfits
  cases hs : s.stop with
  | ioError => rfl
  | _ => rw [hs] at hfits; cases hfits

end

section
variable {g : State → State} (hg : g = id ∨ g = State.scrub)

theorem Pass.not_busy {k : Nat} {s t : State} (h : Pass g k s t) : t.busy = false := by
  induction h with
  | finished hb => exact hb
  | step hb h rest ih => exact ih

include hg

/-- What does not speak of the transient registers and holds after a step holds before the next one. -/
theorem between_steps (P : State → Prop) (hscrub : ∀ u, P u → P u.scrub) {u : State} (h : P u) : P (g u) := by
  rcases hg with rfl | rfl
  · exact h
  · exact hscrub u h

/-- What each step of a pass keeps holds at its end. -/
theorem Pass.keeps (P : State → Prop) (hscrub : ∀ u, P u → P u.scrub)
    (hstep : ∀ s t, s.busy = true → ownStep s = .next t → P s → P t) {k : Nat} {s t : State} (h : Pass g k s t)
    (hs : P s) : P t := by
  induction h with
  | finished hb => exact hs
  | step hb h rest ih => exact ih (between_steps hg P hscrub (hstep _ _ hb h hs))

/-- R171: every pass ends, by the steps that are left to it. -/
theorem Underway.exists_pass {n : Nat} {s : State} (hu : Underway n s) : ∃ k t, Pass g k s t ∧ k ≤ s.budget := by
  induction hm : s.budget using Nat.strong_induction_on generalizing s with
  | _ m ih =>
    cases hb : s.busy with
    | false => exact ⟨0, s, .finished hb, Nat.zero_le _⟩
    | true =>
      obtain ⟨u, e⟩ := ownStep_of_answers hu.answers hb
      have hlt : (g u).budget < m := between_steps hg (fun v => v.budget < m) (fun _ => id)
        (hm ▸ (ownStep_passStep hb e).budget_lt hu.inside)
      have hnext : Underway n (g u) :=
        between_steps hg (Underway n) (fun _ => Underway.scrub) (hu.ownStep hb e)
      obtain ⟨k, t, hpass, hk⟩ := ih _ hlt hnext rfl
      exact ⟨k + 1, t, .step hb e hpass, Nat.succ_le_of_lt (hk.trans_lt hlt)⟩

/-- START and the steps of its pass: at most n + 3 of them, whatever the source holds (R171). -/
theorem exists_pass_of_start {s : State} (n : Nat) (ha : PortAnswers s) :
    ∃ k t, Pass g k (s.started n) t ∧ k ≤ n + 3 ∧ Underway n t := by
  have hu : Underway n (s.started n) := by
    refine ⟨rfl, Nat.zero_le _, ?_, ?_, ha⟩ <;> by_cases hn : n < 4 <;> simp [State.started, hn, stopFitsPhase]
  have hbudget : (s.started n).budget ≤ n + 3 := by
    by_cases hn : n < 4 <;> simp [State.budget, State.started, hn]
  obtain ⟨k, t, hpass, hk⟩ := hu.exists_pass hg
  exact ⟨k, t, hpass, hk.trans hbudget,
    hpass.keeps hg (Underway n) (fun _ => Underway.scrub) (fun _ _ hb h hs => hs.ownStep hb h) hu⟩

end

/-! ### A pass run by the core -/

theorem internalStep_host {s t : State} (h : internalStep s = .next t) : t.host = s.host := by
  have hkept : internalStep s = outcomeWithHost s.host (internalStep s) := internalStep_withHost s.host s
  rw [h] at hkept
  have ht : t = t.withHost s.host := Outcome.next.inj hkept
  exact (congrArg State.host ht :)

theorem run_succ {s t : State} (k : Nat) (h : step s = .next t) :
    Core.run Sys2Proof.core (k + 1) s = Core.run Sys2Proof.core k t := by
  simp only [Core.run, show Sys2Proof.core.step s = .next t from h]

theorem run_of_pass {k : Nat} {s t : State} (h : Pass State.scrub k s t) (hh : s.host = []) :
    Core.run Sys2Proof.core k s = .next t ∧ t.host = [] := by
  induction h with
  | finished hb => exact ⟨rfl, hh⟩
  | @step k s t u hb h rest ih =>
    have hi : internalStep s = .next t.scrub := by rw [internalStep_busy hb, h]; rfl
    rw [run_succ k ((step_no_input s hh).trans hi)]
    exact ih ((internalStep_host hi).trans hh)

/-- The core from a boundary at which the host asserts START and then nothing. -/
theorem run_of_start {k n : Nat} {s t : State} (hb : s.busy = false)
    (h : Pass State.scrub k ((s.withHost []).started n) t) :
    Core.run Sys2Proof.core (k + 1) { s with host := [.start n] } = .next t ∧ t.host = [] := by
  have hstart : step { s with host := [.start n] } = .next ((s.withHost []).started n) :=
    (step_command (s := { s with host := [.start n] }) rfl).trans (execStart_quiescent n (s.withHost []) hb)
  rw [run_succ k hstart]
  exact run_of_pass h rfl

/-- Settles O51: after START each step of the pass uses up some of its budget. -/
theorem everyPassEnds : Obligations.EveryPassEnds := by
  intro s n hb ha
  obtain ⟨k, t, hpass, hk, hu⟩ := exists_pass_of_start (.inr rfl) (s := s.withHost []) n ha
  obtain ⟨hrun, hhost⟩ := run_of_start hb hpass
  exact ⟨k + 1, t, by omega, by omega, hrun, hhost, hu.size, hu.ended hpass.not_busy⟩

end Sys2Proof.Machine
end

section
/-! The pass over a whole source behind a port that serves (`45_walker.md` R172, R179): each step keeps the count that
the function COUNTFRAMES would still come to, so the pass ends with its value; and COUNTFRAMES as one instruction. -/

namespace Sys2Proof.Machine

open Host

/-! ### The functions of the whole source (R140, R150, R172) -/

section
variable {src : Nat → Byte} {size pos : Nat}

theorem metaSkipOf_near (hnear : size - pos < 44) : metaSkipOf src size pos = pos := if_pos hnear

theorem metaSkipOf_invalid {c : Cause} (hv : parse (srcWord src pos) = .invalid c) : metaSkipOf src size pos = pos := by
  simp only [metaSkipOf, hv, ite_self]

theorem metaSkipOf_short {f : FrameHeader} (hv : parse (srcWord src pos) = .valid f)
    (hshort : size - pos < headerLength f) : metaSkipOf src size pos = pos := by
  simp [metaSkipOf, hv, hshort]

theorem metaSkipOf_fits {f : FrameHeader} (hfar : 44 ≤ size - pos) (hv : parse (srcWord src pos) = .valid f)
    (hfits : headerLength f ≤ size - pos) :
    metaSkipOf src size pos = if isMarker (srcWord src (pos + 36)) then pos + headerLength f else pos := by
  obtain ⟨hlong, -⟩ := headerLength_range _ _ hv
  simp only [metaSkipOf, hv]
  rw [if_neg (Nat.not_lt.2 hfar), if_neg (by omega)]

variable {fuel cnt : Nat}

theorem countLoop_near (hnear : size - pos < 4) : countLoop src size (fuel + 1) pos cnt = cnt := if_pos hnear

theorem countLoop_invalid {c : Cause} (hv : parse (srcWord src pos) = .invalid c) :
    countLoop src size (fuel + 1) pos cnt = cnt := by
  simp only [countLoop, hv, ite_self]

theorem countLoop_short {f : FrameHeader} (hv : parse (srcWord src pos) = .valid f)
    (hshort : size - pos < headerLength f) : countLoop src size (fuel + 1) pos cnt = cnt := by
  simp [countLoop, hv, hshort]

theorem countLoop_fits {f : FrameHeader} (hv : parse (srcWord src pos) = .valid f)
    (hfits : headerLength f ≤ size - pos) :
    countLoop src size (fuel + 1) pos cnt = countLoop src size fuel (pos + headerLength f) (cnt + 1) := by
  obtain ⟨hlong, -⟩ := headerLength_range _ _ hv
  simp only [countLoop, hv]
  rw [if_neg (by omega), if_neg (by omega)]

/-- The loop has come to its end when there is fuel for every byte that remains: more changes nothing. -/
theorem countLoop_more_fuel (h : size - pos < fuel) :
    countLoop src size (fuel + 1) pos cnt = countLoop src size fuel pos cnt := by
  induction fuel generalizing pos cnt with
  | zero => omega
  | succ fuel ih =>
    by_cases hnear : size - pos < 4
    · rw [countLoop_near hnear, countLoop_near hnear]
    cases hv : parse (srcWord src pos) with
    | invalid c => rw [countLoop_invalid hv, countLoop_invalid hv]
    | valid f =>
      obtain ⟨hlong, -⟩ := headerLength_range _ _ hv
      by_cases hfits : headerLength f ≤ size - pos
      · rw [countLoop_fits hv hfits, countLoop_fits hv hfits, ih (by omega)]
      · rw [countLoop_short hv (Nat.not_le.1 hfits), countLoop_short hv (Nat.not_le.1 hfits)]

end

/-! ### Each step over the source -/

/-- The source of the pass is whole and the port serves every read of it (R54, R225). -/
structure Sourced (src : Nat → Byte) (s : State) : Prop where
  serves : PortServes s
  source : SourceIs s src s.size

section
variable {src : Nat → Byte} {s t : State} (hs : Sourced src s)
include hs

theorem Sourced.readServed {off len : Nat} (h : off + len ≤ s.size) : ReadServed s off len fun k => src (off + k) :=
  readServed_of_source s src s.size off len hs.serves hs.source h

theorem Sourced.ownStep (hb : s.busy = true) (h : ownStep s = .next t) : Sourced src t where
  serves a hin := hs.serves a (ownStep_port h hin)
  source := by
    have hkept := (ownStep_passStep hb h).kept
    intro k hk
    rw [hkept.mem]
    exact hs.source k (hkept.size ▸ hk)

theorem Sourced.scrub : Sourced src s.scrub := ⟨hs.serves, hs.source⟩

/-- The TAG step is TAGSKIP of the source at POS (R162). -/
theorem execTagStep_of_sourced (hp : s.phase = .tag) (h : execTagStep s = .next t) :
    t.phase = .metadata ∧ t.pos = tagSkipOf src s.size s.pos ∧ t.cnt = s.cnt := by
  obtain ⟨near, served, -⟩ := tagStepSkipsALeadingTag s hp
  by_cases hnear : s.size - s.pos < 10
  · obtain rfl := Outcome.next.inj (h.symm.trans (near hnear))
    exact ⟨rfl, (if_pos hnear).symm, rfl⟩
  · have hfar : 10 ≤ s.size - s.pos := Nat.not_lt.1 hnear
    obtain rfl := Outcome.next.inj (h.symm.trans (served _ hfar (hs.readServed (by omega))))
    exact ⟨rfl, (if_neg hnear).symm, rfl⟩

/-- The META step is METASKIP of the source at POS (R163). -/
theorem execMetaStep_of_sourced (hp : s.phase = .metadata) (h : execMetaStep s = .next t) :
    t.phase = .walk ∧ t.pos = metaSkipOf src s.size s.pos ∧ t.cnt = s.cnt := by
  obtain ⟨near, -, served⟩ := metaStepSkipsAtMostOneStatisticsFrame s hp
  by_cases hnear : s.size - s.pos < 44
  · obtain rfl := Outcome.next.inj (h.symm.trans (near hnear))
    exact ⟨rfl, (metaSkipOf_near hnear).symm, rfl⟩
  have hfar : 44 ≤ s.size - s.pos := Nat.not_lt.1 hnear
  obtain ⟨invalid, short, -, fits⟩ := served _ hfar (hs.readServed (by omega))
  cases hv : parse (srcWord src s.pos) with
  | invalid c =>
    obtain rfl := Outcome.next.inj (h.symm.trans (invalid c hv))
    exact ⟨rfl, (metaSkipOf_invalid hv).symm, rfl⟩
  | valid f =>
    by_cases hfits : headerLength f ≤ s.size - s.pos
    · have hmarker : Sourced src (s.afterRead s.pos 4) := ⟨portServes_afterRead s s.pos 4 hs.serves, hs.source⟩
      have e := fits f _ hv hfits (hmarker.readServed (show s.pos + 36 + 4 ≤ s.size by omega))
      obtain rfl := Outcome.next.inj (h.symm.trans e)
      refine ⟨rfl, ?_, rfl⟩
      rw [metaSkipOf_fits hfar hv hfits]
      simp only [isMarker_iff]
      rfl
    · have hshort := Nat.not_le.1 hfits
      obtain rfl := Outcome.next.inj (h.symm.trans (short f hv hshort))
      exact ⟨rfl, (metaSkipOf_short hv hshort).symm, rfl⟩

/-- A WALK step is one time round the loop of the source at POS (R165, R172): it ends, or goes on behind the frame. -/
theorem execWalkStep_of_sourced (hp : s.phase = .walk) (h : execWalkStep s = .next t) (fuel : Nat) :
    (t.phase = .done ∧ countLoop src s.size (fuel + 1) s.pos s.cnt = t.cnt) ∨
      (t.phase = .walk ∧ s.size - t.pos < s.size - s.pos ∧
        countLoop src s.size (fuel + 1) s.pos s.cnt = countLoop src s.size fuel t.pos t.cnt) := by
  obtain ⟨near, -, served⟩ := walkStepStopsOrCounts s hp
  by_cases hnear : s.size - s.pos < 4
  · obtain rfl := Outcome.next.inj (h.symm.trans (near hnear))
    exact .inl ⟨rfl, countLoop_near hnear⟩
  have hfar : 4 ≤ s.size - s.pos := Nat.not_lt.1 hnear
  obtain ⟨invalid, short, fits⟩ := served _ hfar (hs.readServed (by omega))
  cases hv : parse (srcWord src s.pos) with
  | invalid c =>
    obtain rfl := Outcome.next.inj (h.symm.trans (invalid c hv))
    exact .inl ⟨rfl, countLoop_invalid hv⟩
  | valid f =>
    by_cases hfits : headerLength f ≤ s.size - s.pos
    · obtain ⟨hlong, -⟩ := headerLength_range _ _ hv
      obtain rfl := Outcome.next.inj (h.symm.trans (fits f hv hfits))
      exact .inr ⟨hp, show s.size - (s.pos + headerLength f) < s.size - s.pos by omega, countLoop_fits hv hfits⟩
    · have hshort := Nat.not_le.1 hfits
      obtain rfl := Outcome.next.inj (h.symm.trans (short f hv hshort))
      exact .inl ⟨rfl, countLoop_short hv hshort⟩

end

/-! ### The count that is left -/

/-- The count COUNTFRAMES comes to from a state of its pass (R172). -/
def State.countToCome (src : Nat → Byte) (s : State) : Nat :=
  match s.phase with
  | .tag => countLoop src s.size (s.size + 1) (metaSkipOf src s.size (tagSkipOf src s.size s.pos)) s.cnt
  | .metadata => countLoop src s.size (s.size + 1) (metaSkipOf src s.size s.pos) s.cnt
  | .walk => countLoop src s.size (s.size + 1) s.pos s.cnt
  | .idle => s.cnt
  | .done => s.cnt
  | .fault => s.cnt

/-- A pass over a whole source that comes to the count `c`. -/
structure CountsTo (src : Nat → Byte) (c : Nat) (s : State) : Prop where
  sourced  : Sourced src s
  notFault : s.phase ≠ .fault
  count    : s.countToCome src = c

section
variable {src : Nat → Byte} {c : Nat} {s t : State}

theorem CountsTo.scrub (hc : CountsTo src c s) : CountsTo src c s.scrub := ⟨hc.sourced.scrub, hc.notFault, hc.count⟩

theorem CountsTo.ownStep (hc : CountsTo src c s) (hb : s.busy = true) (h : ownStep s = .next t) :
    CountsTo src c t := by
  have hsize := (ownStep_passStep hb h).kept.size
  have key : t.phase ≠ .fault ∧ t.countToCome src = s.countToCome src := by
    rcases (busy_iff s).1 hb with hp | hp | hp
    · obtain ⟨ht, hpos, hcnt⟩ := execTagStep_of_sourced hc.sourced hp (ownStep_tag s hp ▸ h)
      exact ⟨by simp [ht], by simp only [State.countToCome, hp, ht, hsize, hpos, hcnt]⟩
    · obtain ⟨ht, hpos, hcnt⟩ := execMetaStep_of_sourced hc.sourced hp (ownStep_metadata s hp ▸ h)
      exact ⟨by simp [ht], by simp only [State.countToCome, hp, ht, hsize, hpos, hcnt]⟩
    · rcases execWalkStep_of_sourced hc.sourced hp (ownStep_walk s hp ▸ h) s.size with ⟨ht, hloop⟩ | ⟨ht, hlt, hloop⟩
      · exact ⟨by simp [ht], by simp only [State.countToCome, hp, ht, hloop]⟩
      · refine ⟨by simp [ht], ?_⟩
        simp only [State.countToCome, hp, ht, hsize, hloop]
        exact countLoop_more_fuel (by omega)
  obtain ⟨hne, hcount⟩ := key
  exact ⟨hc.sourced.ownStep hb h, hne, hcount.trans hc.count⟩

end

/-- An accepted START has the whole count of the function to come. -/
theorem countsTo_started {src : Nat → Byte} {n : Nat} {s : State} (hport : PortServes s) (hsrc : SourceIs s src n) :
    CountsTo src (countFrames src n) (s.started n) := by
  refine ⟨⟨hport, hsrc⟩, ?_, ?_⟩ <;> by_cases hn : n < 4 <;> simp [State.started, State.countToCome, countFrames, hn]

theorem portAnswers_of_serves {s : State} (h : PortServes s) : PortAnswers s := fun a ha => by
  rw [h a ha]
  exact nofun

/-- The pass after a START over a whole source ends in DONE with the value of COUNTFRAMES. -/
theorem exists_counting_pass {g : State → State} (hg : g = id ∨ g = State.scrub) {src : Nat → Byte} {n : Nat}
    {s : State} (hport : PortServes s) (hsrc : SourceIs s src n) :
    ∃ k t, Pass g k (s.started n) t ∧ k ≤ n + 3 ∧ t.phase = .done ∧ t.size = n ∧ t.cnt = countFrames src n ∧
      t.pos ≤ n := by
  obtain ⟨k, t, hpass, hk, hu⟩ := exists_pass_of_start hg n (portAnswers_of_serves hport)
  have hc : CountsTo src (countFrames src n) t :=
    hpass.keeps hg (CountsTo src _) (fun _ => CountsTo.scrub) (fun _ _ hb h hs => hs.ownStep hb h)
      (countsTo_started hport hsrc)
  have hdone : t.phase = .done := (hu.ended hpass.not_busy).resolve_right hc.notFault
  have hcnt := hc.count
  rw [State.countToCome, hdone] at hcnt
  exact ⟨k, t, hpass, hk, hdone, hu.size, hcnt, hu.inside.trans hu.size.le⟩

/-- Settles O52: the counting pass, run by the core from the boundary of the START. -/
theorem passCountsWhatCountFramesCounts : Obligations.PassCountsWhatCountFramesCounts := by
  intro s src n hb hport hsrc
  obtain ⟨k, t, hpass, hk, hdone, hsize, hcnt, hpos⟩ :=
    exists_counting_pass (.inr rfl) (s := s.withHost []) hport hsrc
  obtain ⟨hrun, hhost⟩ := run_of_start hb hpass
  exact ⟨k + 1, t, by omega, by omega, hrun, hhost, hdone, hsize, hcnt, hpos⟩

/-! ### COUNTFRAMES as one instruction -/

section
variable {k fuel : Nat} {s t : State}

theorem Pass.eq_of_not_busy {g : State → State} (h : Pass g k s t) (hb : s.busy = false) : t = s := by
  cases h with
  | finished => rfl
  | step hb' => rw [hb] at hb'; cases hb'

/-- The first step of a pass and the rest. -/
theorem Pass.uncons {g : State → State} (h : Pass g k s t) (hb : s.busy = true) :
    ∃ j u, k = j + 1 ∧ Machine.ownStep s = .next u ∧ Pass g j (g u) t := by
  cases h with
  | finished hb' => rw [hb] at hb'; cases hb'
  | step _ e rest => exact ⟨_, _, rfl, e, rest⟩

theorem phase_ne_of_not_busy (hb : s.busy = false) : s.phase ≠ .tag ∧ s.phase ≠ .metadata ∧ s.phase ≠ .walk := by
  rcases (busy_eq_false_iff s).1 hb with hp | hp | hp <;> rw [hp] <;> decide

theorem walkLoop_of_pass (h : Pass id k s t) (hp : s.phase = .walk ∨ s.busy = false) (hk : k ≤ fuel) :
    walkLoop fuel s = .next t := by
  induction fuel generalizing k s with
  | zero =>
    obtain rfl := Nat.le_zero.1 hk
    cases h
    rfl
  | succ fuel ih =>
    rcases hp with hp | hb
    · obtain ⟨j, u, rfl, e, rest⟩ := h.uncons ((busy_iff s).2 (.inr (.inr hp)))
      have hmove := (ownStep_passStep ((busy_iff s).2 (.inr (.inr hp))) e).move.of_walk hp
      rw [walkLoop, if_pos hp, ← ownStep_walk s hp, e]
      exact ih rest (hmove.imp_right fun hq => (busy_eq_false_iff u).2 (.inr hq)) (by omega)
    · obtain ⟨-, -, hw⟩ := phase_ne_of_not_busy hb
      rw [walkLoop, if_neg hw, h.eq_of_not_busy hb]

theorem metaStep_walkLoop_of_pass (h : Pass id k s t) (hp : s.phase = .metadata ∨ s.busy = false)
    (hk : k ≤ fuel + 1) : andThen (execMetaStep s) (walkLoop fuel) = .next t := by
  rcases hp with hp | hb
  · have hb := (busy_iff s).2 (.inr (.inl hp))
    obtain ⟨j, u, rfl, e, rest⟩ := h.uncons hb
    have hmove := (ownStep_passStep hb e).move.of_metadata hp
    rw [← ownStep_metadata s hp, e]
    exact walkLoop_of_pass rest (hmove.imp_right fun hq => (busy_eq_false_iff u).2 (.inr (.inr hq))) (by omega)
  · obtain ⟨-, hm, -⟩ := phase_ne_of_not_busy hb
    rw [execMetaStep_other s hm]
    obtain rfl := h.eq_of_not_busy hb
    exact walkLoop_of_pass (.finished hb) (.inr hb) (Nat.zero_le _)

theorem tagStep_metaStep_walkLoop_of_pass (h : Pass id k s t) (hp : s.phase = .tag ∨ s.busy = false)
    (hk : k ≤ fuel + 2) : andThen (andThen (execTagStep s) execMetaStep) (walkLoop fuel) = .next t := by
  rcases hp with hp | hb
  · have hb := (busy_iff s).2 (.inl hp)
    obtain ⟨j, u, rfl, e, rest⟩ := h.uncons hb
    have hmove := (ownStep_passStep hb e).move.of_tag hp
    rw [← ownStep_tag s hp, e]
    exact metaStep_walkLoop_of_pass rest (hmove.imp_right fun hq => (busy_eq_false_iff u).2 (.inr (.inr hq))) (by omega)
  · obtain ⟨ht, -, -⟩ := phase_ne_of_not_busy hb
    rw [execTagStep_other s ht]
    obtain rfl := h.eq_of_not_busy hb
    exact metaStep_walkLoop_of_pass (.finished hb) (.inr hb) (Nat.zero_le _)

variable {n : Nat}

/-- COUNTFRAMES is START, the steps of the pass and its result (log entry 19). -/
theorem exec_countframes_of_pass (hb : s.busy = false) (h : Pass id k (s.started n) t) (hk : k ≤ n + 3) :
    exec (.countframes n) s = .next { t with fout := passResult t } := by
  have hp : (s.started n).phase = .tag ∨ (s.started n).busy = false := by
    by_cases hn : n < 4 <;> simp [State.started, State.busy, hn]
  show execCountframes n s = _
  rw [execCountframes, hb, execStart_quiescent n s hb]
  show andThen (andThen (andThen (execTagStep (s.started n)) execMetaStep) (walkLoop (n + 1))) _ = _
  rw [tagStep_metaStep_walkLoop_of_pass h hp hk]
  rfl

theorem passResult_done (hp : t.phase = .done) : passResult t = .count t.cnt := by
  rw [passResult, State.error, hp]
  rfl

theorem passResult_fault (hp : t.phase = .fault) : passResult t = .parseError := by
  rw [passResult, State.error, hp]
  rfl

end

/-- Settles O53: the counting pass and the pass that ends, as one instruction; while busy its START is ignored. -/
theorem countframesInstructionIsTheWholePass : Obligations.CountframesInstructionIsTheWholePass := by
  refine ⟨fun s src n hb hport hsrc => ?_, fun s n hb ha => ?_, fun s n hb => if_pos hb⟩
  · obtain ⟨k, t, hpass, hk, hdone, hsize, hcnt, -⟩ := exists_counting_pass (.inl rfl) hport hsrc
    have e := exec_countframes_of_pass hb hpass hk
    exact ⟨_, e, hdone, hsize, hcnt, hcnt ▸ passResult_done hdone, (exec_sourceKept s (.countframes n)).mem_eq e⟩
  · obtain ⟨k, t, hpass, hk, hu⟩ := exists_pass_of_start (.inl rfl) n ha
    refine ⟨_, exec_countframes_of_pass hb hpass hk, ?_⟩
    rcases hu.ended hpass.not_busy with hp | hp
    · exact .inl ⟨hp, passResult_done hp⟩
    · exact .inr ⟨hp, hu.stop_of_fault hp, passResult_fault hp⟩

/-- Settles O55: the START of a short source ends the pass, so no step of it follows. -/
theorem shortSourceCountsZero : Obligations.ShortSourceCountsZero := by
  intro s n hb hn
  have hpass : Pass id 0 (s.started n) (s.started n) := .finished (by simp [State.started, State.busy, hn])
  rw [exec_countframes_of_pass hb hpass (Nat.zero_le _), passResult_done (by simp [State.started, hn]), State.started,
    if_pos hn, if_pos hn]

/-- Without a valid header behind the tag the metadata-frame skip moves nothing and the loop counts nothing (R179). -/
theorem countFrames_of_no_header {src : Nat → Byte} {n : Nat}
    (hno : ∀ f, parse (srcWord src (tagSkipOf src n 0)) ≠ .valid f) : countFrames src n = 0 := by
  obtain ⟨c, -, hv⟩ := exists_parse_invalid hno
  rw [countFrames, metaSkipOf_invalid hv, countLoop_invalid hv, ite_self]

/-- Settles O56: the whole pass ends with the value of COUNTFRAMES, which is 0 here. -/
theorem noParseableHeaderCountsZero : Obligations.NoParseableHeaderCountsZero := by
  intro s src n hb hport hsrc hno
  obtain ⟨overSource, -, -⟩ := countframesInstructionIsTheWholePass
  obtain ⟨t, e, hdone, -, hcnt, -, -⟩ := overSource s src n hb hport hsrc
  exact ⟨t, e, hdone, hcnt.trans (countFrames_of_no_header hno), by rw [State.error, hdone]; rfl⟩

end Sys2Proof.Machine
end

section
/-! How a pass ends (`60_exceptions.md`): a stop of the Walker is precise (R200, R201), and a failed read takes the fault
entry (R203), which holds until a START (R204). -/

namespace Sys2Proof.Machine

open Host

section
variable {s t : State}

/-! ### The moves that end a pass -/

/-- The fault entry writes STOP and PHASE (R203). -/
theorem Move.into_fault (h : Move s t) (ht : t.phase = .fault) :
    t.stop = .ioError ∧ t.cnt = s.cnt ∧ t.invCause = s.invCause := by
  cases h with
  | fail start next cnt stop cause => exact ⟨stop, cnt, cause⟩
  | skip next => simp [ht] at next
  | count start next | stop start next | invalid start next => rw [ht] at next; cases next

/-- The stop entry writes STOP and PHASE, and INV_CAUSE for an invalid header only (R191, R200). -/
theorem Move.into_done (h : Move s t) (ht : t.phase = .done) :
    t.cnt = s.cnt ∧ (t.stop = .endOfSource ∨ t.stop = .invalidHeader ∨ t.stop = .truncatedFrame) ∧
      (t.stop ≠ .invalidHeader → t.invCause = s.invCause) ∧ (t.stop = .invalidHeader → t.invCause ≠ .none) := by
  cases h with
  | stop start next cnt stop cause =>
    refine ⟨cnt, stop.imp_right .inr, fun _ => cause, fun hinv => ?_⟩
    rcases stop with stop | stop <;> rw [hinv] at stop <;> cases stop
  | invalid start next cnt stop cause => exact ⟨cnt, .inr (.inl stop), fun hne => absurd stop hne, fun _ => cause⟩
  | skip next => simp [ht] at next
  | count start next | fail start next => rw [ht] at next; cases next

/-- A verdict moves POS only past a frame it counts, after which the pass goes on (R168, R201). -/
theorem walkVerdict_pos_of_done (r : ParseResult) (h : Word) (hp : s.phase = .walk)
    (ht : (walkVerdict r h s).phase = .done) : (walkVerdict r h s).pos = s.pos := by
  rcases walkVerdict_cases r h s with ⟨c, -, e⟩ | ⟨f, -, -, e⟩ | ⟨f, -, -, e⟩ <;> rw [e] at ht ⊢
  · exact writeHeader_pos s h r
  · exact writeHeader_pos s h r
  · have hwalk : (s.writeHeader h r).phase = .walk := (writeHeader_phase s h r).trans hp
    cases hwalk.symm.trans ht

theorem execWalkStep_pos_of_done (hp : s.phase = .walk) (h : execWalkStep s = .next t) (ht : t.phase = .done) :
    t.pos = s.pos := by
  rcases walkStep_cases s hp with ⟨e, -⟩ | ⟨-, e | e | ⟨w, -, e⟩⟩ <;> rw [e] at h <;> cases h
  · rfl
  · rfl
  · exact walkVerdict_pos_of_done (s := s.afterRead s.pos 4) (parse w) w hp ht

end

/-- Settles O45: what a stop writes, and that it leaves POS, read off the one Walker iteration the step is. -/
theorem stopsArePrecise : Obligations.StopsArePrecise := by
  intro s t hc hp h ht
  obtain ⟨u, l, hu, rfl⟩ := step_next_of_noCommand hc h
  rw [internalStep_walk s hp] at hu
  obtain ⟨v, hv, rfl⟩ := endStep_next hu
  have hstep := execWalkStep_passStep hp hv
  have hpos : v.pos = s.pos := execWalkStep_pos_of_done hp hv ht
  obtain ⟨hcnt, hreason, hkept, hcause⟩ := hstep.move.into_done ht
  exact ⟨hpos, hcnt, hstep.kept.size, hstep.kept.mem, hreason, hkept, hcause⟩

/-! ### The fault entry -/

/-- A boundary without a command is the sequencer's own step, with the quiet input used up. -/
theorem step_of_noCommand {s : State} (hc : NoCommand s) :
    step s = outcomeWithHost s.host.tail (internalStep s) := by
  rcases hc with hc | ⟨rest, hc⟩
  · calc step s = internalStep (s.withHost s.host) := step_no_input s hc
      _ = outcomeWithHost s.host.tail (internalStep s) := by rw [internalStep_withHost, hc, List.tail_nil]
  · rw [step_quiet s rest hc, internalStep_withHost, hc, List.tail_cons]

section
variable {s : State}

/-- In each phase that reads, a failed read ends the step of the phase with the fault entry (R66, R203). -/
theorem ownStep_tag_fails (hp : s.phase = .tag) (hfar : 10 ≤ s.size - s.pos) (hf : ReadFails s s.pos 10) :
    ownStep s = .next (raiseFault (s.afterRead s.pos 10)) := by
  rw [ownStep_tag s hp, execTagStep_tag s hp, tagSkip_fails s.pos s hfar hf, finish_ioFail]

theorem ownStep_header_fails (hp : s.phase = .metadata) (hfar : 44 ≤ s.size - s.pos) (hf : ReadFails s s.pos 4) :
    ownStep s = .next (raiseFault (s.afterRead s.pos 4)) := by
  rw [ownStep_metadata s hp, execMetaStep_metadata s hp, metaSkip_fails s.pos s hfar hf, finish_ioFail]

theorem ownStep_marker_fails {b : Nat → Byte} {f : FrameHeader} (hp : s.phase = .metadata)
    (hfar : 44 ≤ s.size - s.pos) (hs : ReadServed s s.pos 4 b) (hv : parse (wordOf b) = .valid f)
    (hfits : headerLength f ≤ s.size - s.pos) (hf : ReadFails { s with port := s.port.tail } (s.pos + 36) 4) :
    ownStep s =
      .next (raiseFault (((s.afterRead s.pos 4).writeHeader (wordOf b) (.valid f)).afterRead (s.pos + 36) 4)) := by
  rw [ownStep_metadata s hp, execMetaStep_metadata s hp, metaSkip_marker_fails hfar hs hv hfits hf, finish_ioFail]

theorem ownStep_walk_fails (hp : s.phase = .walk) (hfar : 4 ≤ s.size - s.pos) (hf : ReadFails s s.pos 4) :
    ownStep s = .next (raiseFault (s.afterRead s.pos 4)) := by
  rw [ownStep_walk s hp, execWalkStep_far s hp hfar, memRead32_fails s.pos s (by omega) hf, finish_ioFail]

/-- The fault entry of a step that has only read, seen from the boundaries before and after it (R203). -/
theorem step_of_ownStep_fault {u : State} (hc : NoCommand s) (hb : s.busy = true)
    (h : ownStep s = .next (raiseFault u)) (hpos : u.pos = s.pos) :
    ∃ t, step s = .next t ∧ t.stop = .ioError ∧ t.phase = .fault ∧ t.pos = s.pos ∧ t.cnt = s.cnt ∧
      t.size = s.size ∧ t.invCause = s.invCause ∧ t.mem = s.mem ∧ t.done = true ∧ t.error = true := by
  have hstep : PassStep s (raiseFault u) := ownStep_passStep hb h
  obtain ⟨hstop, hcnt, hcause⟩ := hstep.move.into_fault rfl
  exact ⟨(raiseFault u).scrub.withHost s.host.tail, by rw [step_of_noCommand hc, internalStep_busy hb, h]; rfl, hstop,
    rfl, hpos, hcnt, hstep.kept.size, hcause, hstep.kept.mem, rfl, rfl⟩

end

/-- An accepted START leaves FAULT: the pass begins, or ends at once with a result (R160, R204). -/
theorem started_error (n : Nat) (s : State) : (s.started n).error = false := by
  by_cases hn : n < 4 <;> simp [State.started, State.error, hn]

/-- Settles O36: the four places of a read, the fault that holds, and the START that clears it. -/
theorem failedReadTakesTheFaultEntry : Obligations.FailedReadTakesTheFaultEntry := by
  refine ⟨fun s hc hplace => ?_, fun s hp hc => ?_, fun s n rest hp hc => ?_⟩
  · rcases hplace with ⟨hp, hfar, hf⟩ | ⟨hp, hfar, hf⟩ | ⟨hp, hfar, b, f, hs, hv, hfits, hf⟩ | ⟨hp, hfar, hf⟩
    · exact step_of_ownStep_fault hc ((busy_iff s).2 (.inl hp)) (ownStep_tag_fails hp hfar hf) rfl
    · exact step_of_ownStep_fault hc ((busy_iff s).2 (.inr (.inl hp))) (ownStep_header_fails hp hfar hf) rfl
    · exact step_of_ownStep_fault hc ((busy_iff s).2 (.inr (.inl hp))) (ownStep_marker_fails hp hfar hs hv hfits hf) rfl
    · exact step_of_ownStep_fault hc ((busy_iff s).2 (.inr (.inr hp))) (ownStep_walk_fails hp hfar hf) rfl
  · rw [step_of_noCommand hc, internalStep_quiescent s ((busy_eq_false_iff s).2 (.inr (.inr hp)))]
    rfl
  · have hb : (s.withHost rest).busy = false := (busy_eq_false_iff s).2 (.inr (.inr hp))
    exact ⟨_, (step_command hc).trans (execStart_quiescent n (s.withHost rest) hb), started_error n (s.withHost rest)⟩

end Sys2Proof.Machine
end

section
/-! Reset and hazards (`70_reset_and_hazards.md`): hardware reset from any state (R220, R221), a read that is never
answered (R236), and a pass that depends on nothing before its START (R173, R222): two states that agree on the
registers a pass shows, on the source and on the port agree on them after every read and every step. -/

namespace Sys2Proof.Machine

open Host

/-! ### Hardware reset -/

/-- Settles O33: the boundary of a hardware reset is that command alone, in any state. -/
theorem hardwareResetAbandonsThePass : Obligations.HardwareResetAbandonsThePass :=
  ⟨⟨rfl, rfl, rfl⟩, fun s rest h =>
    ⟨hardwareReset (s.withHost rest), step_command h, rfl, rfl, rfl, rfl, rfl, rfl, rfl, rfl, rfl⟩⟩

/-- Settles O40: the reset state is IDLE, and its empty source is in canonical form. -/
theorem invariantHoldsAtReset : Obligations.InvariantHoldsAtReset := inv_of_idle rfl rfl rfl rfl

/-! ### A read that is never answered -/

section
variable {s : State}

/-- In each phase that reads, a read that is never answered leaves the step of the phase stuck (R236). -/
theorem ownStep_tag_silent (hp : s.phase = .tag) (hfar : 10 ≤ s.size - s.pos) (hs : ReadSilent s) :
    ownStep s = .fault .readNeverAnswered := by
  rw [ownStep_tag s hp, execTagStep_tag s hp, tagSkip_silent s.pos s hfar hs, finish_silent]

theorem ownStep_header_silent (hp : s.phase = .metadata) (hfar : 44 ≤ s.size - s.pos) (hs : ReadSilent s) :
    ownStep s = .fault .readNeverAnswered := by
  rw [ownStep_metadata s hp, execMetaStep_metadata s hp, metaSkip_silent s.pos s hfar hs, finish_silent]

theorem ownStep_marker_silent {b : Nat → Byte} {f : FrameHeader} (hp : s.phase = .metadata)
    (hfar : 44 ≤ s.size - s.pos) (hs : ReadServed s s.pos 4 b) (hv : parse (wordOf b) = .valid f)
    (hfits : headerLength f ≤ s.size - s.pos) (hm : ReadSilent { s with port := s.port.tail }) :
    ownStep s = .fault .readNeverAnswered := by
  have hm' : ReadSilent ((s.afterRead s.pos 4).writeHeader (wordOf b) (.valid f)) := hm
  rw [ownStep_metadata s hp, execMetaStep_metadata s hp, metaSkip_served_fits hfar hs hv hfits,
    memRead32_silent _ _ (marker_inside hfar (wordOf b) (.valid f)) hm', silent_andThen, finish_silent]

theorem ownStep_walk_silent (hp : s.phase = .walk) (hfar : 4 ≤ s.size - s.pos) (hs : ReadSilent s) :
    ownStep s = .fault .readNeverAnswered := by
  rw [ownStep_walk s hp, execWalkStep_far s hp hfar, memRead32_silent s.pos s (by omega) hs, finish_silent]

/-- A step of the phase that is stuck leaves the boundary before it stuck. -/
theorem step_of_ownStep_stuck {q : Fault} (hc : NoCommand s) (hb : s.busy = true) (h : ownStep s = .fault q) :
    step s = .fault q := by
  rw [step_of_noCommand hc, internalStep_busy hb, h]
  rfl

end

/-- Settles O37: the four places of a read, each stuck in the step of its phase. -/
theorem unansweredReadBlocksThePass : Obligations.UnansweredReadBlocksThePass := by
  intro s hc hplace
  rcases hplace with ⟨hp, hfar, hs⟩ | ⟨hp, hfar, hs⟩ | ⟨hp, hfar, b, f, hs, hv, hfits, hm⟩ | ⟨hp, hfar, hs⟩
  · exact step_of_ownStep_stuck hc ((busy_iff s).2 (.inl hp)) (ownStep_tag_silent hp hfar hs)
  · exact step_of_ownStep_stuck hc ((busy_iff s).2 (.inr (.inl hp))) (ownStep_header_silent hp hfar hs)
  · exact step_of_ownStep_stuck hc ((busy_iff s).2 (.inr (.inl hp))) (ownStep_marker_silent hp hfar hs hv hfits hm)
  · exact step_of_ownStep_stuck hc ((busy_iff s).2 (.inr (.inr hp))) (ownStep_walk_silent hp hfar hs)

/-! ### Two states at the same point of a pass -/

/-- Two states at the same point of the same pass: the registers that live between steps, the source and the port. The
transient registers, the requests, the commands to come, `fout` and the counter of the free values may differ. -/
structure SamePass (s t : State) : Prop where
  phase    : s.phase = t.phase
  size     : s.size = t.size
  pos      : s.pos = t.pos
  cnt      : s.cnt = t.cnt
  stop     : s.stop = t.stop
  invCause : s.invCause = t.invCause
  mem      : s.mem = t.mem
  port     : s.port = t.port

/-- A part of a step does the same twice: the same value, from states at the same point of the pass to such states. -/
inductive Res.Agree {α : Type} : Res α → Res α → Prop
  | ok (a : α) {s t : State} (h : SamePass s t) : Res.Agree (.ok a s) (.ok a t)
  | ioFail {s t : State} (h : SamePass s t) : Res.Agree (.ioFail s) (.ioFail t)
  | silent : Res.Agree .silent .silent
  | outside : Res.Agree .outside .outside

/-- Two outcomes that leave the same point of the pass. -/
inductive OutcomesAgree : Outcome State Fault Refusal → Outcome State Fault Refusal → Prop
  | next {s t : State} (h : SamePass s t) : OutcomesAgree (.next s) (.next t)
  | fault (q : Fault) : OutcomesAgree (.fault q) (.fault q)
  | refused (r : Refusal) : OutcomesAgree (.refused r) (.refused r)

theorem OutcomesAgree.of_next {s : State} {o : Outcome State Fault Refusal} (h : OutcomesAgree (.next s) o) :
    ∃ t, o = .next t ∧ SamePass s t := by
  cases h with
  | next h => exact ⟨_, rfl, h⟩

theorem Res.Agree.andThen {α β : Type} {r q : Res α} {k : α → State → Res β} (h : r.Agree q)
    (hk : ∀ a s t, SamePass s t → (k a s).Agree (k a t)) : (r.andThen k).Agree (q.andThen k) := by
  cases h with
  | ok a h => exact hk a _ _ h
  | ioFail h => exact .ioFail h
  | silent => exact .silent
  | outside => exact .outside

theorem OutcomesAgree.andThen {o p : Outcome State Fault Refusal} {k : State → Outcome State Fault Refusal}
    (h : OutcomesAgree o p) (hk : ∀ s t, SamePass s t → OutcomesAgree (k s) (k t)) :
    OutcomesAgree (Machine.andThen o k) (Machine.andThen p k) := by
  cases h with
  | next h => exact hk _ _ h
  | fault q => exact .fault q
  | refused r => exact .refused r

theorem Res.Agree.finish {α : Type} {r q : Res α} {k : α → State → State} (h : r.Agree q)
    (hk : ∀ a s t, SamePass s t → SamePass (k a s) (k a t)) : OutcomesAgree (r.finish k) (q.finish k) := by
  cases h with
  | ok a h => exact .next (hk a _ _ h)
  | ioFail h => exact .next { h with phase := rfl, stop := rfl }
  | silent => exact .fault _
  | outside => exact .refused _

section
variable {s t : State} (hst : SamePass s t)
include hst

theorem SamePass.rem : s.rem = t.rem := by rw [State.rem, State.rem, hst.size, hst.pos]

theorem SamePass.afterRead (off len : Nat) : SamePass (s.afterRead off len) (t.afterRead off len) :=
  { hst with port := congrArg List.tail hst.port }

theorem SamePass.writeHeader (h : Word) (r : ParseResult) : SamePass (s.writeHeader h r) (t.writeHeader h r) := by
  cases r <;> exact { hst with }

/-! ### Reads and skips -/

/-- Whether a read is served, and with which bytes, depends on the source and the port only. -/
theorem SamePass.memRead (off len : Nat) (h10 : len ≤ 10) : (memRead off len s).Agree (memRead off len t) := by
  by_cases hin : off + len ≤ s.size
  · have hin' : off + len ≤ t.size := hst.size ▸ hin
    rcases read_trichotomy s off len with ⟨b, hs⟩ | hs | hs
    · have ht : ReadServed t off len b := by rwa [ReadServed, ← hst.mem, ← hst.port]
      rw [memRead_served off len b s hin h10 hs, memRead_served off len b t hin' h10 ht]
      exact .ok _ (hst.afterRead off len)
    · have ht : ReadFails t off len := by rwa [ReadFails, ← hst.mem, ← hst.port]
      rw [memRead_fails off len s hin h10 hs, memRead_fails off len t hin' h10 ht]
      exact .ioFail (hst.afterRead off len)
    · have ht : ReadSilent t := by rwa [ReadSilent, ← hst.port]
      rw [memRead_silent off len s hin hs, memRead_silent off len t hin' ht]
      exact .silent
  · have hout : s.size < off + len := Nat.not_le.1 hin
    rw [memRead_outside off len s hout, memRead_outside off len t (hst.size ▸ hout)]
    exact .outside

theorem SamePass.memRead32 (off : Nat) : (memRead32 off s).Agree (memRead32 off t) := by
  rw [memRead32_eq, memRead32_eq]
  refine (hst.memRead off 4 (by decide)).andThen fun bs u v huv => ?_
  split
  · exact .ok _ huv
  · exact .ioFail huv

theorem SamePass.tagSkip (pos : Nat) : (tagSkip pos s).Agree (tagSkip pos t) := by
  by_cases hnear : s.size - pos < 10
  · rw [tagSkip_near pos s hnear, tagSkip_near pos t (hst.size ▸ hnear)]
    exact .ok pos hst
  · have hfar : 10 ≤ s.size - pos := Nat.not_lt.1 hnear
    rw [tagSkip_far pos s hfar, tagSkip_far pos t (hst.size ▸ hfar), hst.size]
    refine (hst.memRead pos 10 (by decide)).andThen fun bs u v huv => ?_
    split
    · split
      · exact .ok _ huv
      · exact .ok pos huv
    · exact .ioFail huv

theorem SamePass.metaSkipRest (pos : Nat) (h : Word) : (metaSkipRest pos h s).Agree (metaSkipRest pos h t) := by
  rw [Machine.metaSkipRest, Machine.metaSkipRest, hst.size]
  cases parse h with
  | invalid c => exact .ok pos (hst.writeHeader h (.invalid c))
  | valid f =>
    have hwritten := hst.writeHeader h (.valid f)
    dsimp only
    split
    · exact (hwritten.memRead32 _).andThen fun m _ _ => .ok _
    · exact .ok pos hwritten

theorem SamePass.metaSkip (pos : Nat) : (metaSkip pos s).Agree (metaSkip pos t) := by
  by_cases hnear : s.size - pos < 44
  · rw [metaSkip_near pos s hnear, metaSkip_near pos t (hst.size ▸ hnear)]
    exact .ok pos hst
  · have hfar : 44 ≤ s.size - pos := Nat.not_lt.1 hnear
    rw [metaSkip_far pos s hfar, metaSkip_far pos t (hst.size ▸ hfar)]
    exact (hst.memRead32 pos).andThen fun h _ _ huv => huv.metaSkipRest pos h

theorem SamePass.walkVerdict (r : ParseResult) (h : Word) : SamePass (walkVerdict r h s) (walkVerdict r h t) := by
  have hwritten := hst.writeHeader h r
  cases r with
  | invalid c => exact { hwritten with phase := rfl, stop := rfl, invCause := rfl }
  | valid f =>
    rw [Machine.walkVerdict, Machine.walkVerdict, hst.rem]
    split
    · exact
        { hwritten with
          cnt := congrArg (· + 1) hst.cnt
          pos := congrArg (· + headerLength f) hst.pos }
    · exact { hwritten with phase := rfl, stop := rfl }

/-! ### The steps of a pass -/

theorem SamePass.execTagStep : OutcomesAgree (execTagStep s) (execTagStep t) := by
  by_cases hp : s.phase = .tag
  · rw [execTagStep_tag s hp, execTagStep_tag t (hst.phase ▸ hp), hst.pos]
    exact (hst.tagSkip t.pos).finish fun p _ _ huv => { huv with pos := rfl, phase := rfl }
  · rw [execTagStep_other s hp, execTagStep_other t (hst.phase ▸ hp)]
    exact .next hst

theorem SamePass.execMetaStep : OutcomesAgree (execMetaStep s) (execMetaStep t) := by
  by_cases hp : s.phase = .metadata
  · rw [execMetaStep_metadata s hp, execMetaStep_metadata t (hst.phase ▸ hp), hst.pos]
    exact (hst.metaSkip t.pos).finish fun p _ _ huv => { huv with pos := rfl, phase := rfl }
  · rw [execMetaStep_other s hp, execMetaStep_other t (hst.phase ▸ hp)]
    exact .next hst

theorem SamePass.execWalkStep (hp : s.phase = .walk) : OutcomesAgree (execWalkStep s) (execWalkStep t) := by
  have hq : t.phase = .walk := hst.phase ▸ hp
  by_cases hnear : s.rem < 4
  · rw [execWalkStep_near s hp hnear, execWalkStep_near t hq (hst.rem ▸ hnear)]
    exact .next { hst with phase := rfl, stop := rfl }
  · have hfar : 4 ≤ s.rem := Nat.not_lt.1 hnear
    rw [execWalkStep_far s hp hfar, execWalkStep_far t hq (hst.rem ▸ hfar), hst.pos]
    exact (hst.memRead32 t.pos).finish fun h _ _ huv => huv.walkVerdict (parse h) h

theorem SamePass.walkLoop (fuel : Nat) : OutcomesAgree (walkLoop fuel s) (walkLoop fuel t) := by
  induction fuel generalizing s t with
  | zero => exact .next hst
  | succ fuel ih =>
    rw [Machine.walkLoop, Machine.walkLoop, ← hst.phase]
    split
    case isTrue hp => exact (hst.execWalkStep hp).andThen fun _ _ => ih
    case isFalse => exact .next hst

theorem SamePass.sameResult : sameResult s t := ⟨hst.phase, hst.size, hst.pos, hst.cnt, hst.stop, hst.invCause⟩

end

/-! ### From START to the end of the pass -/

section
variable {s t : State} (n : Nat) (hmem : s.mem = t.mem) (hport : s.port = t.port)
include hmem hport

/-- START writes every register a pass shows, so only the source and the port are left from before it (R160, R222). -/
theorem samePass_started : SamePass (s.started n) (t.started n) := ⟨rfl, rfl, rfl, rfl, rfl, rfl, hmem, hport⟩

theorem execCountframes_agree (hs : s.busy = false) (ht : t.busy = false) :
    OutcomesAgree (execCountframes n s) (execCountframes n t) := by
  have hstart : OutcomesAgree (execStart n s) (execStart n t) := by
    rw [execStart_quiescent n s hs, execStart_quiescent n t ht]
    exact .next (samePass_started n hmem hport)
  rw [execCountframes, execCountframes, hs, ht]
  exact (((hstart.andThen fun _ _ => SamePass.execTagStep).andThen fun _ _ => SamePass.execMetaStep).andThen
    fun _ _ huv => huv.walkLoop (n + 1)).andThen fun _ _ huv => .next { huv with }

end

/-- Settles O54: after the two STARTs the passes agree step by step, so both end, with the same registers. -/
theorem passDependsOnNothingBeforeIt : Obligations.PassDependsOnNothingBeforeIt := by
  intro s1 s2 t1 n hb1 hb2 hmem hport h
  have hagree := execCountframes_agree n hmem hport hb1 hb2
  rw [show execCountframes n s1 = .next t1 from h] at hagree
  obtain ⟨t2, e, hsame⟩ := hagree.of_next
  exact ⟨t2, e, hsame.sameResult⟩

end Sys2Proof.Machine
end
